-- ==== Sys2Proof/Word.lean ====
section
/-! DEFINITION. The value types of the block: bits, message bytes, half-precision words and binary32
patterns (spec/00_scope.md R11 to R13).  Bit 0 is the least significant bit of every value (R11). -/

namespace Sys2Proof

/-- One bit: a pin level, an enable bit, a sign. `true` is logical 1. -/
abbrev Bit := Bool

/-- A `u8`: a message byte (R80: any value, `0x00` included). -/
abbrev Byte := BitVec 8

/-- A `u16`: a raw half-precision reading (R75). -/
abbrev Half := BitVec 16

/-- An `f32` by its 32-bit pattern: 1 sign bit, 8 exponent bits of bias 127, 23 fraction bits (R13). -/
abbrev F32 := BitVec 32

/-- The 10-bit word form of a frame (R72). -/
abbrev FrameWord := BitVec 10

/-- The 3-bit operation selector `OP[2:0]` (R90). -/
abbrev Selector := BitVec 3

end Sys2Proof
end

