-- ==== Sys2Proof/Config.lean ====
section
/-! DEFINITION. What an implementation fixes (the parameters of spec/00_scope.md R6) and the values the
spec leaves free.  A free value is an `opaque` constant: it has no body, so nothing can be proved of it
beyond its type. -/

namespace Sys2Proof

/-- A register identity: an opaque value compared for equality only (R52, R78). -/
structure RegId where
  tag : Nat
  deriving DecidableEq, Repr

/-- A resolution: an opaque value compared for equality only (R52, R78). -/
structure Resolution where
  tag : Nat
  deriving DecidableEq, Repr

/-- An instance of the parameter `F32` (R6, R150): the five operations the solver uses. -/
structure F32Ops where
  mul : F32 → F32 → F32
  add : F32 → F32 → F32
  sub : F32 → F32 → F32
  sqrt : F32 → F32
  lt : F32 → F32 → Bool
  deriving Inhabited

/-- Which instance of `F32` the configuration has: the default, IEEE 754 binary32 (R150), or another, by a
number that only tells the others apart (log 9). -/
inductive Arith where
  | ieee
  | other (n : Nat)
  deriving DecidableEq, Repr

/-- The parameters of R6 that are plain values.  They are constant for the life of the device (R7).
The proof fields are the ranges of R6 and R212: a configuration outside them is no state of the block. -/
structure Params where
  /-- `CNT_W`, the width of the cycle counter (D2: open, default 32). -/
  cntW : Nat
  /-- `P`, the bit period in ticks (R7). -/
  bitPeriod : Nat
  /-- `PIN`, the identity of the one output pin (R24); no rule reads it. -/
  pin : Nat
  regQX : RegId
  regQY : RegId
  regQZ : RegId
  /-- `RES_16`, the resolution that marks a 16-bit encoded reading (R79). -/
  res16 : Resolution
  /-- `F32`, by its name (D18). -/
  arith : Arith
  /-- `RX_TOL`, the jitter tolerance of the external receiver (R128, D33). -/
  rxTol : Rat
  /-- `FLOAT_TOL`, the tolerance of the source's floating comparisons (D33); needed for another `F32` only. -/
  floatTol : Rat
  cntW_pos : 1 ≤ cntW
  bitPeriod_pos : 1 ≤ bitPeriod
  bitPeriod_lt : bitPeriod < 2 ^ cntW
  x_ne_y : regQX ≠ regQY
  y_ne_z : regQY ≠ regQZ
  x_ne_z : regQX ≠ regQZ
  deriving DecidableEq, Repr

/-- `FMT_CAP`: data bytes the formatting buffer holds, the terminator not counted (R6). -/
abbrev fmtCap : Nat := 127

/-- `FMT_SIZE = FMT_CAP + 1` (R6). -/
abbrev fmtSize : Nat := 128

/-- `FMTBUF`: 128 bytes, indices `0 .. 127` (R27). -/
abbrev FmtBuf := Vector Byte fmtSize

/-- `SEQ.KIND` (R28): which operation runs.  DESIGN CHOICE (log 4): `sendFmt` marks the SENDRAW step of a
SENDFMT, whose end releases the formatting buffer. -/
inductive Kind where
  | delay
  | sendRaw
  | sendFmt
  deriving DecidableEq, Repr, Inhabited

/-- A format template (R8): opaque to the block, handed to `Render` only.
PRESUMED (log 7): carried as the byte sequence of spec/93 G1. -/
structure Template where
  bytes : List Byte
  deriving DecidableEq, Repr

/-- A formatter argument (R8, R50): opaque to the block, handed to `Render` only.
PRESUMED (log 7): the typed values of spec/93 G1. -/
inductive Arg where
  | int (v : Int)
  | uint (v : Nat)
  | char (c : Byte)
  | str (s : List Byte)
  deriving DecidableEq, Repr

/-- `Render` (R8): total, nothing else assumed (log 7). -/
opaque Config.render : Template → List Arg → List Byte

/-- `NaNOf` (R6, R144): the sign and fraction bits of the NaN that DECODE gives for a NaN pattern (log 8). -/
opaque Config.nanOf : Half → BitVec 24

/-- The operations of an instance of `F32` other than the default: nothing is assumed of them (D18, log 9). -/
opaque Config.otherF32 : Nat → F32Ops

/-- Sign and fraction bits of the NaN that `F32.mul` gives (R150: "a NaN") (log 9). -/
opaque Config.nanMul : F32 → F32 → BitVec 24

/-- Sign and fraction bits of the NaN that `F32.add` and `F32.sub` give (R150) (log 9). -/
opaque Config.nanAdd : F32 → F32 → BitVec 24

/-- Sign and fraction bits of the NaN that `F32.sqrt` gives (R150) (log 9). -/
opaque Config.nanSqrt : F32 → BitVec 24

/-! Dead cells.  After an operation returns, `IRQSAVE`, `FMTBUF` and the fields of `SEQ` other than `MODE`
hold unspecified values (R26, R27, R57).  Each is drawn anew, by the number of the draw (log 5). -/

opaque Config.deadIrqSave : Nat → Bit
opaque Config.deadBuf : Nat → FmtBuf
opaque Config.deadKind : Nat → Kind
opaque Config.deadRest : Nat → List Byte
opaque Config.deadCur : Nat → Byte
opaque Config.deadSlot : Nat → Fin 10
opaque Config.deadStart : Nat → Nat
opaque Config.deadLen : Nat → Nat

end Sys2Proof
end

