-- ==== Sys2Proof/Syntax.lean ====
section
/-! DEFINITION. The instructions, one constructor per row of spec/opcode_table.json, and the request that
carries one to the block (spec/30_encoding.md R70, R90 to R93). -/

namespace Sys2Proof

/-- A telemetry reading, the triple `(id, res, raw)` (R78). -/
structure Reading where
  id : RegId
  res : Resolution
  raw : Half
  deriving DecidableEq, Repr

/-- One constructor per row of the opcode table.  Operands come whole (R91). -/
inductive Instr where
  /-- `DELAY cycles`, `OP = 0` (R100). -/
  | delay (cycles : Nat)
  /-- `SENDRAW bytes`, `OP = 1` (R110). -/
  | sendRaw (bytes : List Byte)
  /-- `SENDFMT format, args`, `OP = 2` (R120). -/
  | sendFmt (format : Template) (args : List Arg)
  /-- `DECODE raw`, `OP = 3` (R140). -/
  | decode (raw : Half)
  /-- `RECONSTRUCT readings`, `OP = 4` (R154). -/
  | reconstruct (readings : List Reading)
  /-- `OP = 5`, reserved (R92). -/
  | reserved5
  /-- `OP = 6`, reserved (R92). -/
  | reserved6
  /-- `OP = 7`, reserved (R92). -/
  | reserved7
  /-- Row `F16.ZERO` (R76, R141): `e = 0`, `m = 0`. -/
  | f16Zero (s : Bit)
  /-- Row `F16.SUBNORMAL` (R76, R142): `e = 0`, `m ≠ 0`. -/
  | f16Subnormal (s : Bit) (m : BitVec 10)
  /-- Row `F16.INF` (R76, R143): `e = 31`, `m = 0`. -/
  | f16Inf (s : Bit)
  /-- Row `F16.NAN` (R76, R144): `e = 31`, `m ≠ 0`. -/
  | f16Nan (s : Bit) (m : BitVec 10)
  /-- Row `F16.NORMAL` (R76, R145): `1 ≤ e ≤ 30`. -/
  | f16Normal (s : Bit) (e : BitVec 5) (m : BitVec 10)
  /-- Row `FRAME` (R72, R105): the frame of one payload byte, the internal procedure SENDBYTE, which SENDRAW
  invokes and nothing outside can request (R93). -/
  | frame (b : Byte)
  deriving DecidableEq, Repr

/-- The operands of an operation request, each whole, in the forms of R91.  The source gives them no bit
layout (R54, R78), so the model gives them none. -/
inductive Operands where
  | none
  | cycles (c : Nat)
  | message (bytes : List Byte)
  | text (format : Template) (args : List Arg)
  | raw (r : Half)
  | readings (rs : List Reading)
  deriving DecidableEq, Repr

/-- What arrives at the block: an operation request (R18: selector plus operands), or a bare word of one of
the two data formats of the table (log 4). -/
inductive Request where
  | op (sel : Selector) (args : Operands)
  | half (raw : Half)
  | frame (w : FrameWord)
  deriving DecidableEq, Repr

/-- Why the decoder refuses a request. -/
inductive DecodeError where
  /-- The operands are not of the form R91 gives the selector. -/
  | operandsDoNotFit
  /-- Bit 0 of a frame word is not the start bit `0` (R72). -/
  | frameStartBit
  /-- Bit 9 of a frame word is not the stop bit `1` (R72). -/
  | frameStopBit
  deriving DecidableEq, Repr

end Sys2Proof
end

