-- ==== Sys2Proof/WellFormed.lean ====
section
/-! DEFINITION. Which instructions are well formed: the ranges of the operands that their types do not
already carry. -/

namespace Sys2Proof

/-- `cycles` is a `u(CNT_W)` (R91, D32: a wider value is refused); the fields of a half-precision class are
those of its row in R76.  Every byte, raw word, template, argument list and collection is legal (R92). -/
def Instr.wf (cfg : Params) : Instr → Bool
  | .delay cycles => decide (cycles < 2 ^ cfg.cntW)
  | .sendRaw _ => true
  | .sendFmt _ _ => true
  | .decode _ => true
  | .reconstruct _ => true
  | .reserved5 => true
  | .reserved6 => true
  | .reserved7 => true
  | .f16Zero _ => true
  | .f16Subnormal _ m => decide (m ≠ 0)
  | .f16Inf _ => true
  | .f16Nan _ m => decide (m ≠ 0)
  | .f16Normal _ e _ => decide (1 ≤ e.toNat ∧ e.toNat ≤ 30)
  | .frame _ => true

end Sys2Proof
end

