-- ==== Sys2Proof/Decode.lean ====
section
/-! DEFINITION. The decoder, total on every request and rejecting by name, and the encoder, both written
from the encodings of spec/30_encoding.md (R71, R72, R75, R76, R90, R91) and spec/opcode_table.json. -/

namespace Sys2Proof

/-! ## The half-precision fields (R75) -/

/-- `s = raw[15]`. -/
def halfSign (raw : Half) : Bit := raw.getLsbD 15

/-- `e = raw[14:10]`. -/
def halfExp (raw : Half) : BitVec 5 := raw.extractLsb' 10 5

/-- `m = raw[9:0]`. -/
def halfMant (raw : Half) : BitVec 10 := raw.extractLsb' 0 10

/-- The `u16` with fields `s`, `e`, `m`. -/
def halfWord (s : Bit) (e : BitVec 5) (m : BitVec 10) : Half := BitVec.ofBool s ++ e ++ m

/-- The table test of R76: `raw & mask = match`. -/
def rowHits (mask val raw : Half) : Bool := (raw &&& mask) == val

/-- The class rows of R76 in their priority order; the first that matches wins. -/
def decodeHalfRow (raw : Half) : Instr :=
  if rowHits 0x7FFF 0x0000 raw then .f16Zero (halfSign raw)
  else if rowHits 0x7C00 0x0000 raw then .f16Subnormal (halfSign raw) (halfMant raw)
  else if rowHits 0x7FFF 0x7C00 raw then .f16Inf (halfSign raw)
  else if rowHits 0x7C00 0x7C00 raw then .f16Nan (halfSign raw) (halfMant raw)
  else .f16Normal (halfSign raw) (halfExp raw) (halfMant raw)

/-! ## The frame word (R72) -/

/-- `FRAME(b) = {1, b[7:0], 0}`. -/
def frameWord (b : Byte) : FrameWord := 1#1 ++ b ++ 0#1

/-- The payload, bits 8 to 1 (R72). -/
def framePayload (w : FrameWord) : Byte := w.extractLsb' 1 8

/-- Bit 0 is the start bit `0`, bit 9 the stop bit `1` (R71, R72). -/
def decodeFrame (w : FrameWord) : Except DecodeError Instr :=
  if w.getLsbD 0 then .error .frameStartBit
  else if w.getLsbD 9 then .ok (.frame (framePayload w))
  else .error .frameStopBit

/-! ## The operation request (R90, R91, R92) -/

/-- The operation a selector and its operands name.  A reserved selector names its reserved row whatever
operands come with it (R92). -/
def decodeOp (sel : Selector) (args : Operands) : Except DecodeError Instr :=
  match sel.toNat, args with
  | 0, .cycles c => .ok (.delay c)
  | 1, .message bytes => .ok (.sendRaw bytes)
  | 2, .text format fargs => .ok (.sendFmt format fargs)
  | 3, .raw r => .ok (.decode r)
  | 4, .readings rs => .ok (.reconstruct rs)
  | 5, _ => .ok .reserved5
  | 6, _ => .ok .reserved6
  | 7, _ => .ok .reserved7
  | _, _ => .error .operandsDoNotFit

/-- The decoder. -/
def decodeRequest : Request → Except DecodeError Instr
  | .op sel args => decodeOp sel args
  | .half raw => .ok (decodeHalfRow raw)
  | .frame w => decodeFrame w

/-- The encoder: selector and operands of R90 and R91, the patterns of R76, the frame word of R72. -/
def encode : Instr → Request
  | .delay c => .op 0 (.cycles c)
  | .sendRaw bytes => .op 1 (.message bytes)
  | .sendFmt format args => .op 2 (.text format args)
  | .decode raw => .op 3 (.raw raw)
  | .reconstruct rs => .op 4 (.readings rs)
  | .reserved5 => .op 5 .none
  | .reserved6 => .op 6 .none
  | .reserved7 => .op 7 .none
  | .f16Zero s => .half (halfWord s 0 0)
  | .f16Subnormal s m => .half (halfWord s 0 m)
  | .f16Inf s => .half (halfWord s 31 0)
  | .f16Nan s m => .half (halfWord s 31 m)
  | .f16Normal s e m => .half (halfWord s e m)
  | .frame b => .frame (frameWord b)

/-! ## Words as the opcode table numbers them -/

/-- Operands of zeros, in the form R91 gives the selector: no ticks, the empty message, the empty template
without arguments, the pattern `0x0000`, the empty collection. -/
def zeroOperands (sel : Selector) : Operands :=
  match sel.toNat with
  | 0 => .cycles 0
  | 1 => .message []
  | 2 => .text ⟨[]⟩ []
  | 3 => .raw 0
  | 4 => .readings []
  | _ => .none

/-- The request whose table bits are `w`.  The table's three formats are told apart by their size (log 3):
up to 8 bits the selector of format OP3, 9 or 10 bits a FRAME10 word, more an F16 word. -/
def tableRequest (nbits w : Nat) : Request :=
  if nbits ≤ 8 then .op (BitVec.ofNat 3 w) (zeroOperands (BitVec.ofNat 3 w))
  else if nbits ≤ 10 then .frame (BitVec.ofNat 10 w)
  else .half (BitVec.ofNat 16 w)

/-- How a table word comes to run.  A request runs as it is; a frame word cannot be requested (R93) and runs
when SENDRAW sends its byte, so the request is that one (log 3). -/
def Request.toRun : Request → Request
  | .op sel args => .op sel args
  | .half raw => .half raw
  | .frame w =>
    if w.getLsbD 0 = false ∧ w.getLsbD 9 = true then .op 1 (.message [framePayload w]) else .frame w

/-- The instruction the decoder reads from the word `w` of the opcode table. -/
def decodeTableWord (nbits w : Nat) : Option Instr :=
  match decodeRequest (tableRequest nbits w) with
  | .ok i => some i
  | .error _ => none

end Sys2Proof
end

