-- ==== Sys2Proof/Machine/State.lean ====
section
/-! DEFINITION. The state of the block as plain data (spec/10_state.md R22 to R34), the inputs the world
gives it, the reasons a step stops, and the launch state of R34. -/

namespace Sys2Proof.Machine

/-- `SEQ.MODE` (R28). -/
inductive Mode where
  | idle
  | run
  deriving DecidableEq, Repr, Inhabited

/-- `SEQ`, the sequencer record of unit TX (R28). -/
structure Seq where
  mode : Mode
  kind : Kind
  /-- Bytes still to be framed after `cur`. -/
  rest : List Byte
  /-- The byte whose frame is in flight. -/
  cur : Byte
  /-- The bit slot now on the pin: 0 start, 1 to 8 data, 9 stop. -/
  slot : Fin 10
  /-- `CYCCNT` at the tick the current wait began. -/
  dstart : Nat
  /-- Ticks the current wait lasts. -/
  dlen : Nat
  deriving DecidableEq, Repr

/-- A SENDFMT that is rendering (R29, R121): the text `Render` gives and the ticks rendering still takes.
The model's own record (log 6). -/
structure Rendering where
  text : List Byte
  left : Nat
  deriving DecidableEq, Repr

/-- Four `f32` in the source's order (R30). -/
structure Quaternion where
  w : F32
  x : F32
  y : F32
  z : F32
  deriving DecidableEq, Repr

/-- The one condition the block reports; no payload (R170). -/
inductive Condition where
  | missingOrDuplicateAxis
  deriving DecidableEq, Repr

/-- What unit DEC hands to its caller (R94). -/
inductive Result where
  | float (v : F32)
  | quaternion (q : Quaternion)
  | error (c : Condition)
  deriving DecidableEq, Repr

/-- Who tries to take a tick from unit TX (R176, R177). -/
inductive Preempt where
  | none
  | maskable
  | unmaskable
  deriving DecidableEq, Repr

/-- One thing the world does.  A tick passes (the tick input of R18, with the move of the environment agent
of R176 at the instant it reaches); a request arrives (R18); the calling core writes its own `IRQEN` (R32);
something other than unit TX writes the pin, the counter or the caller's message (R33, R61, R214, R219). -/
inductive Input where
  | tick (taker : Preempt)
  | request (r : Request)
  | irqWrite (v : Bit)
  | pinWrite (v : Bit)
  | counterWrite (v : Nat)
  | messageWrite
  deriving DecidableEq, Repr

/-- The block has no fault: unit TX "never fails" (R109) and the one condition of unit DEC is a value handed
to the caller (R170, R181).  No constructor, so no step can end in a fault. -/
inductive Fault where
  deriving DecidableEq, Repr

/-- Why the model gives a run no meaning (`refuse`, R17).  Every refusal is safe: nothing is proved of what
follows it. -/
inductive Refusal where
  /-- Raised by `exec` for an instruction without a meaning; no arm uses it.  Safe. -/
  | notModelled (mnemonic : String)
  /-- Raised by the reserved rows: selectors 5, 6, 7 name no operation (R92).  Safe. -/
  | reservedSelector (op : Selector)
  /-- Raised by the fetch of a request the decoder refuses (R91, R72).  Safe. -/
  | badRequest (e : DecodeError)
  /-- Raised by the fetch of an ill-formed instruction: `cycles` wider than `CNT_W` bits (D32).  Safe. -/
  | illFormed
  /-- Raised by the fetch of a frame word, and by its meaning where no SENDRAW runs: SENDBYTE is invoked by
  SENDRAW only and cannot be requested from outside (R93, R105).  Safe. -/
  | internalProcedure
  /-- Raised by a transmitter operation requested while `BUSY = 1` (R29, R108, R214).  Safe. -/
  | busy
  /-- Raised by a foreign write of the pin during a transmitter operation (R33).  Safe. -/
  | pinShared
  /-- Raised by a write of the counter during a transmitter operation (R33, R214).  Safe. -/
  | counterWritten
  /-- Raised by a write of the caller's operands during a transmitter operation (R61, U14).  Safe. -/
  | operandsChanged
  /-- Raised by a write of `IRQEN` other than SENDRAW's during a transmitter operation (R108).  Safe. -/
  | callerActed
  /-- Raised by a tick taken from a busy unit TX while `IRQEN = 0`: the premise `NoUnmaskablePreemption`
  fails (R177).  Safe. -/
  | unmaskablePreemption
  deriving DecidableEq, Repr

/-- The whole state.  `BUSY` (R29) is the view `State.busy`, since R29 fixes it by `mode` and `rendering`. -/
structure State where
  /-- The parameters: `CNT_W`, `P`, `PIN`, the axis identities, `RES_16`, `F32`, the tolerances (R6, R24, R32). -/
  cfg : Params
  /-- `CYCCNT`, a `u(CNT_W)` (R22). -/
  cyccnt : Nat
  /-- `TXD`, the output pin (R23). -/
  txd : Bit
  /-- `IRQEN`, the maskable-interrupt enable of the calling core (R25). -/
  irqen : Bit
  /-- `IRQSAVE`, the per-call save of `IRQEN` (R26). -/
  irqsave : Bit
  /-- `FMTBUF`, the formatting buffer (R27). -/
  fmtbuf : FmtBuf
  /-- `SEQ`, the sequencer record (R28). -/
  seq : Seq
  /-- The SENDFMT that is rendering, if one is (R29, R121). -/
  rendering : Option Rendering
  /-- `T`, the tick index (R15): exists only in the model. -/
  tick : Nat
  /-- The operation-result interface of unit DEC (R18): the result last handed to a caller. -/
  result : Option Result
  /-- What the world does next, first first (R9, R18).  The model's own (log 2). -/
  inputs : List Input
  /-- Free values, the model's own: the ticks the next renderings take, first first; 0 when it is empty,
  since R121 gives rendering no time (log 6). -/
  renderTicks : List Nat
  /-- Free values, the model's own: how many dead cells have been drawn (log 5). -/
  draws : Nat
  deriving DecidableEq, Repr

/-- The parameters of the launch state.  `CNT_W = 32` and the IEEE 754 instance of `F32` are the defaults of
R6; the rest are open parameters, here at values of the model's choosing (DESIGN CHOICE, log 1). -/
def defaultParams : Params where
  cntW := 32
  bitPeriod := 1
  pin := 0
  regQX := ⟨0⟩
  regQY := ⟨1⟩
  regQZ := ⟨2⟩
  res16 := ⟨0⟩
  arith := .ieee
  rxTol := 0
  floatTol := 0
  cntW_pos := by decide
  bitPeriod_pos := by decide
  bitPeriod_lt := by decide
  x_ne_y := by decide
  y_ne_z := by decide
  x_ne_z := by decide

/-- `SEQ` at launch: `MODE = IDLE` (R34); the other fields are unspecified, here zero (DESIGN CHOICE, log 1). -/
def Seq.reset : Seq where
  mode := .idle
  kind := .delay
  rest := []
  cur := 0
  slot := 0
  dstart := 0
  dlen := 0

/-- The launch state of R34: `TXD = 1`, `MODE = IDLE`, nothing rendering.  `CYCCNT`, `IRQEN`, `IRQSAVE` and
`FMTBUF` are unspecified there and zero here (DESIGN CHOICE, log 1). -/
def State.reset : State where
  cfg := defaultParams
  cyccnt := 0
  txd := true
  irqen := false
  irqsave := false
  fmtbuf := Vector.replicate fmtSize 0
  seq := Seq.reset
  rendering := none
  tick := 0
  result := none
  inputs := []
  renderTicks := []
  draws := 0

end Sys2Proof.Machine
end

