-- ==== Sys2Proof/Machine/Operands.lean ====
section
/-! DEFINITION. The operand forms: the levels of a frame (R71), the null-terminated buffer (R51), and the
consumed entries of a collection of readings (R155). -/

namespace Sys2Proof.Machine

/-- The level on the pin in slot `k` of the frame of `b`: `FRAME(b)[k]` (R71, R72). -/
def frameBit (b : Byte) (k : Nat) : Bit := (frameWord b).getLsbD k

/-- `MemRead(FMTBUF, i, 1)` (R14). -/
def memRead (buf : FmtBuf) (i : Fin fmtSize) : Byte := buf[i]

/-- `MemWrite(FMTBUF, i, 1, v)` (R14); no index above 127 exists (R122). -/
def memWrite (buf : FmtBuf) (i : Nat) (v : Byte) : FmtBuf := buf.setIfInBounds i v

/-- `MemWrite` of successive bytes from index `i` on. -/
def memWriteFrom (i : Nat) : List Byte → FmtBuf → FmtBuf
  | [], buf => buf
  | v :: vs, buf => memWriteFrom (i + 1) vs (memWrite buf i v)

/-- The write step of SENDFMT (R120, R122, R123): the first `min(len, 127)` bytes of the text, then the
terminator; the bytes after it keep what they held (U19). -/
def fillBuf (text : List Byte) (buf : FmtBuf) : FmtBuf :=
  memWriteFrom 0 (text.take fmtCap ++ [0]) buf

/-- `cstr(buf)`: the bytes before the first `0x00` (R51, R124). -/
def cstr (buf : FmtBuf) : List Byte := buf.toList.takeWhile (· ≠ 0)

/-- Is the entry consumed: an axis identity at the resolution `RES_16` (R155). -/
def consumed (cfg : Params) (r : Reading) : Bool :=
  r.res == cfg.res16 && (r.id == cfg.regQX || r.id == cfg.regQY || r.id == cfg.regQZ)

/-- The raw words of the consumed entries with identity `id`, in the order they came. -/
def axisRaws (cfg : Params) (id : RegId) (readings : List Reading) : List Half :=
  ((readings.filter (consumed cfg)).filter (·.id == id)).map (·.raw)

/-- The raw words of the three axes, when each axis identity is consumed exactly once (R154, R156). -/
def selectAxes (cfg : Params) (readings : List Reading) : Option (Half × Half × Half) :=
  match axisRaws cfg cfg.regQX readings, axisRaws cfg cfg.regQY readings, axisRaws cfg cfg.regQZ readings with
  | [x], [y], [z] => some (x, y, z)
  | _, _, _ => none

end Sys2Proof.Machine
end

