-- ==== Sys2Proof/Machine/Flags.lean ====
section
/-! DEFINITION. The one flag of the block, `IRQEN` (R25), and what SENDRAW does to it: the save and clear at
its entry (R112) and the restore at its exit (R117).  There is no other flag to compute (R25). -/

namespace Sys2Proof.Machine

/-- `IRQSAVE <- IRQEN; IRQEN <- 0`, one indivisible action (R112). -/
def State.enterMasked (s : State) : State :=
  { s with irqsave := s.irqen, irqen := false }

/-- `IRQEN <- IRQSAVE` (R117); the save is dead afterwards (R26), so a free value. -/
def State.leaveMasked (s : State) : State :=
  { s with irqen := s.irqsave, irqsave := Config.deadIrqSave s.draws, draws := s.draws + 1 }

end Sys2Proof.Machine
end

