-- ==== Sys2Proof/Machine/Ops.lean ====
section
/-! DEFINITION. The named operations over the state that the instructions share: the counter and its
wrapping arithmetic (R12, R22, R101), the pin and the sequencer (R28, R119), the buffer (R27), and handing a
result or the one condition to the caller (R94, R181). -/

namespace Sys2Proof.Machine

/-- `a +w b` (R12). -/
def addW (w a b : Nat) : Nat := (a + b) % 2 ^ w

/-- `a -w b` (R12): `(a - b) mod 2^w` on unbounded integers. -/
def subW (w a b : Nat) : Nat := (((a : Int) - (b : Int)) % ((2 ^ w : Nat) : Int)).toNat

/-- `BUSY` (R29): `MODE = RUN`, or SENDFMT is rendering. -/
def State.busy (s : State) : Bool := s.seq.mode == .run || s.rendering.isSome

/-- The elapsed count of the current wait, by unsigned subtraction (R101). -/
def State.elapsed (s : State) : Nat := subW s.cfg.cntW s.cyccnt s.seq.dstart

/-- One tick: `CYCCNT <- CYCCNT +w 1` (R22); the tick index goes on (R15). -/
def State.countTick (s : State) : State :=
  { s with cyccnt := addW s.cfg.cntW s.cyccnt 1, tick := s.tick + 1 }

/-- `KIND <- K_DELAY; DSTART <- CYCCNT; DLEN <- cycles; MODE <- RUN` (R119). -/
def State.startWait (cycles : Nat) (s : State) : State :=
  { s with seq := { s.seq with mode := .run, kind := .delay, dstart := s.cyccnt, dlen := cycles } }

/-- Put slot `k` of the frame of `CUR` on the pin and start its wait (R105, R119); the write takes no tick (R14). -/
def State.driveSlot (k : Fin 10) (s : State) : State :=
  { s with
    txd := frameBit s.seq.cur k
    seq := { s.seq with slot := k, dstart := s.cyccnt } }

/-- The invocation of `SENDBYTE b`, which only SENDRAW does: its start slot goes on the pin (R105, R119). -/
def State.sendByte (b : Byte) (s : State) : State :=
  State.driveSlot 0 { s with seq := { s.seq with cur := b } }

/-- SENDRAW runs, with `rest` to follow: `REST; DLEN <- P; KIND; MODE <- RUN` (R119). -/
def State.openRun (kind : Kind) (rest : List Byte) (s : State) : State :=
  { s with seq := { s.seq with mode := .run, kind := kind, rest := rest, dlen := s.cfg.bitPeriod } }

/-- Take a byte off what SENDRAW still has to send: `REST <- REST[1..]` (R119). -/
def State.setRest (rest : List Byte) (s : State) : State := { s with seq := { s.seq with rest := rest } }

/-- `MODE <- IDLE`; the other fields of `SEQ` are unspecified from then on (R34, R57), so free values. -/
def State.endRun (s : State) : State :=
  { s with
    seq :=
      { mode := .idle
        kind := Config.deadKind s.draws
        rest := Config.deadRest s.draws
        cur := Config.deadCur s.draws
        slot := Config.deadSlot s.draws
        dstart := Config.deadStart s.draws % 2 ^ s.cfg.cntW
        dlen := Config.deadLen s.draws % 2 ^ s.cfg.cntW }
    draws := s.draws + 1 }

/-- The buffer's content after SENDFMT returns is unspecified (R27), so a free value. -/
def State.releaseBuf (s : State) : State :=
  { s with fmtbuf := Config.deadBuf s.draws, draws := s.draws + 1 }

/-- What the end of an operation of the kind does besides `MODE <- IDLE`: SENDRAW restores the mask (R117),
and the SENDRAW step of SENDFMT is the last user of the buffer (R27). -/
def State.release (kind : Kind) (s : State) : State :=
  match kind with
  | .delay => s
  | .sendRaw => s.leaveMasked
  | .sendFmt => s.leaveMasked.releaseBuf

/-- The entry of SENDRAW (R112, R119): mask, then SENDBYTE of the first byte, or for the empty message the
exit at once (R114). -/
def State.beginSend (kind : Kind) (bytes : List Byte) (s : State) : State :=
  match bytes with
  | [] => s.enterMasked.release kind
  | b :: rest => (s.enterMasked.openRun kind rest).sendByte b

/-- The write step of SENDFMT and the entry of its SENDRAW step (R120). -/
def State.sendText (text : List Byte) (s : State) : State :=
  State.beginSend .sendFmt (cstr (fillBuf text s.fmtbuf))
    { s with rendering := none, fmtbuf := fillBuf text s.fmtbuf }

/-- SENDFMT with its text rendered (R121): after `n` ticks of rendering, outside the masked window, the
text is written and sent; with no time to render that happens at once. -/
def State.beginRender (text : List Byte) (n : Nat) (s : State) : State :=
  if n = 0 then s.sendText text else { s with rendering := some ⟨text, n⟩ }

/-- Take the ticks the next rendering takes (log 6). -/
def State.takeRenderTicks (s : State) : State := { s with renderTicks := s.renderTicks.tail }

/-- Hand a result of unit DEC to its caller (R18, R94); unit DEC has no other effect (R57, R170). -/
def State.deliver (r : Result) (s : State) : State := { s with result := some r }

/-- `raise MissingOrDuplicateAxis` (R14, R181): the error is a value handed to the caller; no state is saved,
no mode and no mask changes, control goes back to the caller. -/
def State.raiseMissingOrDuplicateAxis (s : State) : State :=
  s.deliver (.error .missingOrDuplicateAxis)

end Sys2Proof.Machine
end

