-- ==== Sys2Proof/Machine/Float.lean ====
section
/-! DEFINITION. The binary32 operations of the solver (R150): the default instance of the parameter `F32`,
IEEE 754 binary32, every operation correctly rounded to nearest with ties to even, no flags, no traps.
PRESUMED (log 9): the spec marks the format and these properties as general knowledge. -/

namespace Sys2Proof.Machine

/-- A binary32 value read from its pattern; `fin s m e` is `(-1)^s * m * 2^e`, exactly (R13). -/
inductive Unpacked where
  | nan
  | inf (s : Bit)
  | fin (s : Bit) (m : Nat) (e : Int)
  deriving DecidableEq, Repr

def f32Sign (a : F32) : Bit := a.getLsbD 31
def f32Exp (a : F32) : Nat := (a.extractLsb' 23 8).toNat
def f32Frac (a : F32) : Nat := (a.extractLsb' 0 23).toNat
/-- The pattern without its sign bit. -/
def f32Mag (a : F32) : Nat := (a.extractLsb' 0 31).toNat

/-- The is-NaN predicate (R13): exponent field 255 and a non-zero fraction (R146). -/
def isNaN (a : F32) : Bool := f32Exp a == 255 && f32Frac a != 0

/-- The pattern with sign `s` and magnitude bits `mag`. -/
def signed (s : Bit) (mag : Nat) : F32 := BitVec.ofBool s ++ BitVec.ofNat 31 mag

def f32Zero (s : Bit) : F32 := signed s 0
def f32Inf (s : Bit) : F32 := signed s 0x7F800000
def f32One : F32 := 0x3F800000

/-- The NaN with the given sign and fraction bits; a zero fraction, which is no NaN's, stands for 1.
Every NaN pattern arises. -/
def nanPattern (bits : BitVec 24) : F32 :=
  let frac : BitVec 23 := bits.extractLsb' 0 23
  BitVec.ofBool (bits.getLsbD 23) ++ (0xFF#8) ++ (if frac = 0 then 1#23 else frac)

def unpack (a : F32) : Unpacked :=
  if isNaN a then .nan
  else if f32Exp a = 255 then .inf (f32Sign a)
  else if f32Exp a = 0 then .fin (f32Sign a) (f32Frac a) (-149)
  else .fin (f32Sign a) (2 ^ 23 + f32Frac a) ((f32Exp a : Int) - 150)

/-- `m / 2^k` rounded to the nearest integer, ties to even. -/
def rneShift (m k : Nat) : Nat :=
  let q := m / 2 ^ k
  let r := m % 2 ^ k
  if 2 ^ k < 2 * r ∨ (2 * r = 2 ^ k ∧ q % 2 = 1) then q + 1 else q

/-- `m * 2^d` as an integer, rounded to nearest even when `d` is negative. -/
def rneScale (m : Nat) (d : Int) : Nat :=
  if 0 ≤ d then m * 2 ^ d.toNat else rneShift m (-d).toNat

/-- The binary32 value nearest `(-1)^s * m * 2^e`, ties to even.  `q` is the exponent of the last place:
24 significant bits, and not below that of the subnormals.  Rounding up to `2^24` carries into the exponent
field, and past the largest finite value into the pattern of infinity. -/
def roundPack (s : Bit) (m : Nat) (e : Int) : F32 :=
  if m = 0 then f32Zero s
  else
    let q : Int := max ((Nat.log2 m : Int) + e - 23) (-149)
    signed s (min ((q + 149).toNat * 2 ^ 23 + rneScale m (e - q)) 0x7F800000)

def f32Neg (a : F32) : F32 := a ^^^ 0x80000000

/-- `F32.mul` (R150). -/
def f32Mul (a b : F32) : F32 :=
  match unpack a, unpack b with
  | .fin s m e, .fin t n f => roundPack (s ^^ t) (m * n) (e + f)
  | .inf s, .inf t => f32Inf (s ^^ t)
  | .inf s, .fin t n _ => if n = 0 then nanPattern (Config.nanMul a b) else f32Inf (s ^^ t)
  | .fin s m _, .inf t => if m = 0 then nanPattern (Config.nanMul a b) else f32Inf (s ^^ t)
  | _, _ => nanPattern (Config.nanMul a b)

/-- The integer `(-1)^s * m`. -/
def signedInt (s : Bit) (m : Nat) : Int := if s then -(m : Int) else m

/-- The exact sum of two finite values, rounded once; an exact zero is `+0` unless both are negative. -/
def addFinite (s : Bit) (m : Nat) (e : Int) (t : Bit) (n : Nat) (f : Int) : F32 :=
  let k := min e f
  let sum := signedInt s (m * 2 ^ (e - k).toNat) + signedInt t (n * 2 ^ (f - k).toNat)
  if sum = 0 then f32Zero (s && t) else roundPack (decide (sum < 0)) sum.natAbs k

/-- `F32.add` (R150). -/
def f32Add (a b : F32) : F32 :=
  match unpack a, unpack b with
  | .fin s m e, .fin t n f => addFinite s m e t n f
  | .inf s, .inf t => if s = t then f32Inf s else nanPattern (Config.nanAdd a b)
  | .inf s, .fin _ _ _ => f32Inf s
  | .fin _ _ _, .inf t => f32Inf t
  | _, _ => nanPattern (Config.nanAdd a b)

/-- `F32.sub` (R150). -/
def f32Sub (a b : F32) : F32 := f32Add a (f32Neg b)

/-- The integer square root, one bit at a time: the largest `r' ≥ r` with `r' ^ 2 ≤ n` that differs from `r`
in its low `k` bits only. -/
def isqrtBits : Nat → Nat → Nat → Nat
  | 0, _, r => r
  | k + 1, n, r => isqrtBits k n (if (r + 2 ^ k) * (r + 2 ^ k) ≤ n then r + 2 ^ k else r)

/-- The integer square root of a number below `2^80`. -/
def isqrt (n : Nat) : Nat := isqrtBits 40 n 0

/-- The root of `m * 2^e`, `m ≠ 0`, rounded once.  The radicand is scaled by an even exponent to at least
`2^52`, so that its integer root has more bits than a binary32 and one sticky bit decides the rounding. -/
def sqrtFinite (m : Nat) (e : Int) : F32 :=
  let j : Nat := if e % 2 = 0 then 52 else 53
  let n := m * 2 ^ j
  let r := isqrt n
  roundPack false (2 * r + (if r * r = n then 0 else 1)) ((e - j) / 2 - 1)

/-- `F32.sqrt` (R150): `sqrt(+0) = +0`, `sqrt(-0) = -0`, a negative operand gives a NaN. -/
def f32Sqrt (a : F32) : F32 :=
  match unpack a with
  | .nan => nanPattern (Config.nanSqrt a)
  | .inf s => if s then nanPattern (Config.nanSqrt a) else f32Inf false
  | .fin s m e => if m = 0 then f32Zero s else if s then nanPattern (Config.nanSqrt a) else sqrtFinite m e

/-- A non-NaN value's place in the order of the reals; the two zeros share one. -/
def orderKey (a : F32) : Int := signedInt (f32Sign a) (f32Mag a)

/-- `F32.lt` (R150): false when an operand is a NaN, and `-0` and `+0` are equal. -/
def f32Lt (a b : F32) : Bool := !isNaN a && !isNaN b && decide (orderKey a < orderKey b)

/-- The default instance (R150). -/
def ieee : F32Ops := ⟨f32Mul, f32Add, f32Sub, f32Sqrt, f32Lt⟩

/-- The instance of `F32` that a configuration names (R6, D18). -/
def f32Ops : Arith → F32Ops
  | .ieee => ieee
  | .other n => Config.otherF32 n

end Sys2Proof.Machine
end

