-- ==== Sys2Proof/Machine/Decoder.lean ====
section
/-! DEFINITION. Unit DEC (spec/41_decoder.md): the value of each half-precision class (R141 to R146), the
solver (R151, R152), and the meanings of DECODE, RECONSTRUCT and the F16 rows.  Unit DEC reads no state but
the parameters, writes none, and may run while the transmitter is busy (R57, R64, R140); its result goes to
the result interface. -/

namespace Sys2Proof.Machine

/-- Class ZERO: `s << 31` (R141, R146). -/
def valueZero (s : Bit) : F32 := f32Zero s

/-- Class SUBNORMAL, with `k = floor(log2 m)`: exponent field `k + 103`, fraction `(m - 2^k) << (23 - k)`
(R142, R146). -/
def valueSubnormal (s : Bit) (m : BitVec 10) : F32 :=
  let k := Nat.log2 m.toNat
  signed s ((k + 103) * 2 ^ 23 + (m.toNat - 2 ^ k) * 2 ^ (23 - k))

/-- Class INF (R143, R146). -/
def valueInf (s : Bit) : F32 := f32Inf s

/-- Class NAN: `NaNOf(raw)`, some NaN (R144, R146). -/
def valueNan (raw : Half) : F32 := nanPattern (Config.nanOf raw)

/-- Class NORMAL: exponent field `e + 112`, fraction `m << 13` (R145, R146). -/
def valueNormal (s : Bit) (e : BitVec 5) (m : BitVec 10) : F32 :=
  signed s ((e.toNat + 112) * 2 ^ 23 + m.toNat * 2 ^ 13)

/-- `DECODE(raw)` (R140), its five arms in the order of the pseudocode. -/
def decodeHalf (raw : Half) : F32 :=
  let s := halfSign raw
  let e := halfExp raw
  let m := halfMant raw
  if e = 0 ∧ m = 0 then valueZero s
  else if e = 0 then valueSubnormal s m
  else if e = 31 ∧ m = 0 then valueInf s
  else if e = 31 then valueNan raw
  else valueNormal s e m

/-- The radicand `1 - ((xx + yy) + zz)` (R151). -/
def radicand (ops : F32Ops) (x y z : F32) : F32 :=
  ops.sub f32One (ops.add (ops.add (ops.mul x x) (ops.mul y y)) (ops.mul z z))

/-- The clamp: a radicand less than zero is replaced by `+0.0` (R152). -/
def clamp (ops : F32Ops) (r : F32) : F32 := if ops.lt r (f32Zero false) then f32Zero false else r

/-- `SOLVEW(x, y, z)` (R151). -/
def solveW (ops : F32Ops) (x y z : F32) : F32 := ops.sqrt (clamp ops (radicand ops x y z))

/-- The quaternion of three raw axis words: the decoded components unchanged and the solved `w` (R154, R158). -/
def quaternionOf (ops : F32Ops) (x y z : Half) : Quaternion :=
  ⟨solveW ops (decodeHalf x) (decodeHalf y) (decodeHalf z), decodeHalf x, decodeHalf y, decodeHalf z⟩

/-- `DECODE raw` (R140). -/
def execDecode (raw : Half) (s : State) : Host.Outcome State Fault Refusal :=
  .next (s.deliver (.float (decodeHalf raw)))

/-- `RECONSTRUCT readings` (R154): the completeness check comes before any decoding (R156, R157). -/
def execReconstruct (readings : List Reading) (s : State) : Host.Outcome State Fault Refusal :=
  match selectAxes s.cfg readings with
  | some (x, y, z) => .next (s.deliver (.quaternion (quaternionOf (f32Ops s.cfg.arith) x y z)))
  | none => .next s.raiseMissingOrDuplicateAxis

/-- A word of row F16.ZERO: what DECODE gives for the class (R141). -/
def execF16Zero (sg : Bit) (s : State) : Host.Outcome State Fault Refusal :=
  .next (s.deliver (.float (valueZero sg)))

/-- A word of row F16.SUBNORMAL (R142). -/
def execF16Subnormal (sg : Bit) (m : BitVec 10) (s : State) : Host.Outcome State Fault Refusal :=
  .next (s.deliver (.float (valueSubnormal sg m)))

/-- A word of row F16.INF (R143). -/
def execF16Inf (sg : Bit) (s : State) : Host.Outcome State Fault Refusal :=
  .next (s.deliver (.float (valueInf sg)))

/-- A word of row F16.NAN (R144). -/
def execF16Nan (sg : Bit) (m : BitVec 10) (s : State) : Host.Outcome State Fault Refusal :=
  .next (s.deliver (.float (valueNan (halfWord sg 31 m))))

/-- A word of row F16.NORMAL (R145). -/
def execF16Normal (sg : Bit) (e : BitVec 5) (m : BitVec 10) (s : State) :
    Host.Outcome State Fault Refusal :=
  .next (s.deliver (.float (valueNormal sg e m)))

end Sys2Proof.Machine
end

