-- ==== Sys2Proof/Machine/Reserved.lean ====
section
/-! DEFINITION. The reserved selectors 5, 6, 7 (R92): they name no operation, and the model refuses a
request that carries one. -/

namespace Sys2Proof.Machine

/-- `OP = 5` (R92). -/
def execReserved5 (_s : State) : Host.Outcome State Fault Refusal := .refused (.reservedSelector 5)

/-- `OP = 6` (R92). -/
def execReserved6 (_s : State) : Host.Outcome State Fault Refusal := .refused (.reservedSelector 6)

/-- `OP = 7` (R92). -/
def execReserved7 (_s : State) : Host.Outcome State Fault Refusal := .refused (.reservedSelector 7)

end Sys2Proof.Machine
end

