-- ==== Sys2Proof/Machine/Transmitter.lean ====
section
/-! DEFINITION. Unit TX (spec/40_transmitter.md) in the small-step form of R119: the invocation of DELAY,
SENDRAW and SENDFMT, SENDBYTE as SENDRAW invokes it, and what unit TX does at an instant that is its own. -/

namespace Sys2Proof.Machine

/-- `DELAY cycles` (R100): `cycles = 0` returns at once (R102, R119). -/
def execDelay (cycles : Nat) (s : State) : Host.Outcome State Fault Refusal :=
  if s.busy then .refused .busy
  else .next (if cycles = 0 then s else s.startWait cycles)

/-- `SENDRAW bytes` (R110). -/
def execSendRaw (bytes : List Byte) (s : State) : Host.Outcome State Fault Refusal :=
  if s.busy then .refused .busy else .next (s.beginSend .sendRaw bytes)

/-- `SENDFMT format, args` (R120); the ticks rendering takes are free (R121, log 6). -/
def execSendFmt (format : Template) (args : List Arg) (s : State) : Host.Outcome State Fault Refusal :=
  if s.busy then .refused .busy
  else .next (s.takeRenderTicks.beginRender (Config.render format args) (s.renderTicks.headD 0))

/-- `SENDBYTE b` (R105), the frame of one byte.  Only a running SENDRAW, alone or as the last step of a
SENDFMT, invokes it (R93); it does so in `State.beginSend` and `State.advance`, by the same `State.sendByte`. -/
def execFrame (b : Byte) (s : State) : Host.Outcome State Fault Refusal :=
  if s.seq.mode = .run ∧ s.seq.kind ≠ .delay then .next (s.sendByte b) else .refused .internalProcedure

/-- The body of R119's loop, when the current wait is over: the next slot, the next byte, or the end. -/
def State.advance (s : State) : State :=
  if s.seq.kind = .delay then s.endRun
  else if s.seq.slot.val < 9 then s.driveSlot (s.seq.slot + 1)
  else
    match s.seq.rest with
    | b :: rest => (s.setRest rest).sendByte b
    | [] => (s.release s.seq.kind).endRun

/-- Unit TX acts at an instant (R119): it polls its wait (R100), or goes on rendering (R121). -/
def State.act (s : State) : State :=
  match s.rendering with
  | some r =>
    if r.left ≤ 1 then s.sendText r.text else { s with rendering := some { r with left := r.left - 1 } }
  | none =>
    if s.seq.mode = .run ∧ s.seq.dlen ≤ s.elapsed then s.advance else s

end Sys2Proof.Machine
end

