-- ==== Sys2Proof/Machine/Dispatch.lean ====
section
/-! DEFINITION. One arm per constructor of Instr. -/

namespace Sys2Proof.Machine

def exec (i : Instr) (s : State) : Host.Outcome State Fault Refusal :=
  match i with
  | .delay cycles => Sys2Proof.Machine.execDelay cycles s
  | .sendRaw bytes => Sys2Proof.Machine.execSendRaw bytes s
  | .sendFmt format args => Sys2Proof.Machine.execSendFmt format args s
  | .decode raw => Sys2Proof.Machine.execDecode raw s
  | .reconstruct readings => Sys2Proof.Machine.execReconstruct readings s
  | .reserved5 => Sys2Proof.Machine.execReserved5 s
  | .reserved6 => Sys2Proof.Machine.execReserved6 s
  | .reserved7 => Sys2Proof.Machine.execReserved7 s
  | .f16Zero sg => Sys2Proof.Machine.execF16Zero sg s
  | .f16Subnormal sg m => Sys2Proof.Machine.execF16Subnormal sg m s
  | .f16Inf sg => Sys2Proof.Machine.execF16Inf sg s
  | .f16Nan sg m => Sys2Proof.Machine.execF16Nan sg m s
  | .f16Normal sg e m => Sys2Proof.Machine.execF16Normal sg e m s
  | .frame b => Sys2Proof.Machine.execFrame b s

end Sys2Proof.Machine
end

