-- ==== Sys2Proof/Machine/Environment.lean ====
section
/-! DEFINITION. The other agents (R9): the counter and the environment that may take ticks (R176, R177), the
fetch of a request, and writes by others of what a transmitter operation owns (R33). -/

namespace Sys2Proof.Machine

/-- One tick passes.  The counter ticks; at the instant reached unit TX acts, unless the environment takes
that tick from it: any source may while `IRQEN = 1`, none may while `IRQEN = 0` (R176), and a taken tick of a
busy unit TX with `IRQEN = 0` is refused (R177, `NoUnmaskablePreemption`). -/
def passTick (p : Preempt) (s : State) : Host.Outcome State Fault Refusal :=
  match p with
  | .none => .next s.countTick.act
  | .maskable => .next (if s.irqen then s.countTick else s.countTick.act)
  | .unmaskable => if s.busy && !s.irqen then .refused .unmaskablePreemption else .next s.countTick

/-- Can the instruction be requested from outside: every one but the internal procedure SENDBYTE (R93). -/
def requestable : Instr → Bool
  | .delay _ => true
  | .sendRaw _ => true
  | .sendFmt _ _ => true
  | .decode _ => true
  | .reconstruct _ => true
  | .reserved5 => true
  | .reserved6 => true
  | .reserved7 => true
  | .f16Zero _ => true
  | .f16Subnormal _ _ => true
  | .f16Inf _ => true
  | .f16Nan _ _ => true
  | .f16Normal _ _ _ => true
  | .frame _ => false

/-- The instruction a request carries, if it decodes to a well-formed one that can be requested. -/
def fetchRequest (cfg : Params) (r : Request) : Except Refusal Instr :=
  match decodeRequest r with
  | .error e => .error (.badRequest e)
  | .ok i =>
    if requestable i then if i.wf cfg then .ok i else .error .illFormed
    else .error .internalProcedure

/-- The calling core writes its own `IRQEN` (R32), which it cannot do while an operation blocks it (R108). -/
def writeIrqen (v : Bit) (s : State) : Host.Outcome State Fault Refusal :=
  if s.busy then .refused .callerActed else .next { s with irqen := v }

/-- The pin is driven by other means (R219); during a transmitter operation that is refused (R33). -/
def writePin (v : Bit) (s : State) : Host.Outcome State Fault Refusal :=
  if s.busy then .refused .pinShared else .next { s with txd := v }

/-- Something sets the counter; during a transmitter operation that is refused (R33, R214). -/
def writeCounter (v : Nat) (s : State) : Host.Outcome State Fault Refusal :=
  if s.busy then .refused .counterWritten else .next { s with cyccnt := v % 2 ^ s.cfg.cntW }

/-- The memory that holds a caller's operands is rewritten; during a transmitter operation that is refused
(R61, U14), and otherwise no operation reads it. -/
def writeMessage (s : State) : Host.Outcome State Fault Refusal :=
  if s.busy then .refused .operandsChanged else .next s

end Sys2Proof.Machine
end

