-- ==== Sys2Proof/Machine/Step.lean ====
section
/-! DEFINITION. One step: the first input of the list happens; with none listed a tick passes. -/

namespace Sys2Proof.Machine

/-- One step (R9, R119).  A request is fetched, decoded and executed at the instant it arrives and takes no
tick; everything else is the tick or a write by another agent. -/
def step (s : State) : Host.Outcome State Fault Refusal :=
  match s.inputs with
  | [] => passTick .none s
  | .tick p :: rest => passTick p { s with inputs := rest }
  | .request r :: rest =>
    match fetchRequest s.cfg r with
    | .ok i => exec i { s with inputs := rest }
    | .error e => .refused e
  | .irqWrite v :: rest => writeIrqen v { s with inputs := rest }
  | .pinWrite v :: rest => writePin v { s with inputs := rest }
  | .counterWrite v :: rest => writeCounter v { s with inputs := rest }
  | .messageWrite :: rest => writeMessage { s with inputs := rest }

/-- The state whose next input makes that table word run: its request, or for a frame word the request of the
SENDRAW that invokes SENDBYTE on its byte at once (R93, log 3). -/
def State.withFetchWord (s : State) (nbits w : Nat) : State :=
  { s with inputs := .request (tableRequest nbits w).toRun :: s.inputs }

end Sys2Proof.Machine
end

