-- ==== Sys2Proof/Safety.lean ====
section
/-! DEFINITION. The terms claims are stated in: runs, the masked window, the premises a claim about the
waveform carries (R177, R219), the invariant of a safe run, the reference receiver of R190, correct
rounding, and the conditions that bind the parameters `P` and `F32` with their tolerances. -/

namespace Sys2Proof.Machine

/-- `k` steps, stopping at the first refusal. -/
def steps : Nat → State → Host.Outcome State Fault Refusal
  | 0, s => .next s
  | k + 1, s =>
    match step s with
    | .next t => steps k t
    | .fault r => .fault r
    | .refused r => .refused r

/-- A frame is in flight (R23). -/
def State.inFrame (s : State) : Prop := s.seq.mode = .run ∧ s.seq.kind ≠ .delay

/-- The masked window of a SENDRAW, or of the SENDRAW step of a SENDFMT (R17, R175). -/
def State.inWindow (s : State) : Prop :=
  s.seq.mode = .run ∧ (s.seq.kind = .sendRaw ∨ s.seq.kind = .sendFmt)

/-- All that the world does is let ticks pass and have maskable sources try to take them.  This carries the
premise `NoUnmaskablePreemption` (R177). -/
def State.quiet (s : State) : Prop := ∀ i ∈ s.inputs, i = .tick .none ∨ i = .tick .maskable

/-- All that the world does is let ticks pass, none of them taken. -/
def State.unpreempted (s : State) : Prop := ∀ i ∈ s.inputs, i = .tick .none

/-- No source takes a tick from unit TX: none tries, or those that try are masked (R103). -/
def State.undisturbed (s : State) : Prop := s.unpreempted ∨ (s.quiet ∧ s.irqen = false)

/-- The tick is not taken from unit TX (R176). -/
def untaken (p : Preempt) (s : State) : Prop := p = .none ∨ (p = .maskable ∧ s.irqen = false)

/-- The invariant of a safe run.  Its last field is the caller's duty of R219, as a premise on what is to
come: whoever drives the pin by other means leaves it at 1. -/
structure State.Inv (s : State) : Prop where
  /-- `CYCCNT` is a `u(CNT_W)` (R22). -/
  counter_lt : s.cyccnt < 2 ^ s.cfg.cntW
  /-- `DSTART` and `DLEN` are `u(CNT_W)` (R28). -/
  dstart_lt : s.seq.dstart < 2 ^ s.cfg.cntW
  dlen_lt : s.seq.dlen < 2 ^ s.cfg.cntW
  /-- A running wait lasts at least a tick (R119). -/
  dlen_pos : s.seq.mode = .run → 1 ≤ s.seq.dlen
  /-- The masked window is masked (R175). -/
  masked : s.inWindow → s.irqen = false
  /-- The pin carries the slot's level, and the slot is one bit period long (R71, R105). -/
  slot_level : s.inFrame → s.txd = frameBit s.seq.cur s.seq.slot ∧ s.seq.dlen = s.cfg.bitPeriod
  /-- In the masked window no slot is held longer than its wait (R118). -/
  on_time : s.inWindow → s.elapsed < s.seq.dlen
  /-- "The pin is driven to an idle-high level whenever no frame is in flight" (R23). -/
  idle_high : ¬ s.inFrame → s.txd = true
  /-- SENDFMT renders before its SENDRAW step, and for at least a tick once it takes time (R121). -/
  render_first : ∀ r, s.rendering = some r → s.seq.mode = .idle ∧ 1 ≤ r.left
  /-- Premise (R219). -/
  pin_left_high : Input.pinWrite false ∉ s.inputs

/-- The level of the pin `k` ticks on, as the receiver sees it; idle where the run has no meaning. -/
def State.levelAfter (s : State) (k : Nat) : Bit :=
  match steps k s with
  | .next t => t.txd
  | _ => true

/-- The reference receiver's ten samples of a frame that fell at tick `tf`, at mid-bit: the byte, if the
start sample is 0 and the stop sample 1 (R190).  PRESUMED (log 10). -/
def sampleByte (period : Nat) (level : Nat → Bit) (tf : Nat) : Option Byte :=
  let v (k : Nat) : Nat := (level (tf + k * period + period / 2)).toNat
  if v 0 = 0 ∧ v 9 = 1 then
    some (BitVec.ofNat 8
      (v 1 + v 2 * 2 + v 3 * 4 + v 4 * 8 + v 5 * 16 + v 6 * 32 + v 7 * 64 + v 8 * 128))
  else none

/-- The reference receiver from tick `t` on, for at most `fuel` looks at the line: it waits for a fall from 1
to 0, samples, and resumes the search in the middle of the stop slot (R190).  PRESUMED (log 10). -/
def receive (period : Nat) (level : Nat → Bit) : Nat → Nat → List Byte
  | 0, _ => []
  | fuel + 1, t =>
    if level t = true ∧ level (t + 1) = false then
      (sampleByte period level (t + 1)).toList ++ receive period level fuel (t + 1 + 9 * period + period / 2)
    else receive period level fuel (t + 1)

/-- The exact value of a finite binary32 (R13). -/
def f32Value (a : F32) : Option Rat :=
  match unpack a with
  | .fin s m e => some (signedInt s m * (2 : Rat) ^ e)
  | .inf _ => none
  | .nan => none

/-- Half a last place above the largest finite value: from here on round to nearest gives an infinity. -/
def f32Overflow : Rat := (2 ^ 25 - 1) * 2 ^ 103

/-- `a` is the real number `v` rounded to nearest, ties to even, with the sign of `v` (R150): no finite value
is nearer, and one equally near has the odd pattern; what is too large becomes an infinity.
PRESUMED (log 9). -/
structure CorrectlyRounded (v : ℝ) (a : F32) : Prop where
  nearest : |v| < f32Overflow → ∃ q, f32Value a = some q ∧ ∀ b r, f32Value b = some r →
    |v - q| ≤ |v - r| ∧ (|v - q| = |v - r| → q = r ∨ a.getLsbD 0 = false)
  too_large : (f32Overflow : ℝ) ≤ v → a = f32Inf false
  too_small : v ≤ -(f32Overflow : ℝ) → a = f32Inf true
  sign_pos : 0 < v → f32Sign a = false
  sign_neg : v < 0 → f32Sign a = true

/-- The properties R150 lists, which are all that D18 lets a claim assume of an instance of `F32`. -/
structure ListedProperties (ops : F32Ops) : Prop where
  inf_mul_inf : ops.mul 0x7F800000 0x7F800000 = 0x7F800000
  one_sub_inf : ops.sub 0x3F800000 0x7F800000 = 0xFF800000
  sqrt_zero : ops.sqrt 0x00000000 = 0x00000000
  sqrt_neg_zero : ops.sqrt 0x80000000 = 0x80000000
  zeros_equal : ops.lt 0x80000000 0x00000000 = false ∧ ops.lt 0x00000000 0x80000000 = false
  nan_operand : ∀ a b : F32, isNaN a = true ∨ isNaN b = true →
    isNaN (ops.mul a b) = true ∧ isNaN (ops.add a b) = true ∧ isNaN (ops.sub a b) = true ∧ ops.lt a b = false
  sqrt_nan : ∀ a : F32, isNaN a = true ∨ ops.lt a 0x00000000 = true → isNaN (ops.sqrt a) = true

/-- The condition R128 puts on the configuration: with ticks of `tau` seconds and a receiver set to `baud`,
the bit period is within `RX_TOL`.  No rule of the block depends on it. -/
def meetsTiming (cfg : Params) (tau baud : Rat) : Prop :=
  |cfg.bitPeriod * tau * baud - 1| ≤ cfg.rxTol

/-- The condition the source's unit-norm test puts on the configuration's `F32` (R151, D33): for `x = 0.6`,
`y = z = 0` the solved `w` is within `FLOAT_TOL` of 0.8.  DESIGN CHOICE (log 19): the spec says only "within floating
tolerance"; here it is the absolute difference from the exact 4/5, equality allowed.  No rule of the block
depends on it. -/
def meetsFloatTol (cfg : Params) : Prop :=
  ∃ w, f32Value (solveW (f32Ops cfg.arith) 0x3F19999A 0 0) = some w ∧ |w - 4 / 5| ≤ cfg.floatTol

end Sys2Proof.Machine
end

