-- ==== Sys2Proof/Certificates/Slice0/Obligations.lean ====
section
/-! DEFINITION. The statements about the block, for the provers.  Each is one `def Obligations.<Name> : Prop`;
none is proved here.  A statement whose docstring says "the model's choice" rests on the log entry it names,
not on a rule of the spec. -/

open Sys2Proof Sys2Proof.Machine

/-! ## Encodings -/

/-- Decoding what the encoder writes gives the instruction back, for every well-formed instruction and every
operand (R72, R75, R76, R90, R91). -/
def Obligations.EncodeThenDecode : Prop :=
  ∀ (cfg : Params) (i : Instr), i.wf cfg = true → decodeRequest (encode i) = .ok i

/-- Every `u16` belongs to exactly one class row of R76, with the fields of that row (R75, R77). -/
def Obligations.HalfWordHasOneClass : Prop :=
  ∀ (cfg : Params) (raw : Half),
    (decodeHalfRow raw).wf cfg = true ∧ encode (decodeHalfRow raw) = .half raw ∧
      ∀ i : Instr, i.wf cfg = true → encode i = .half raw → i = decodeHalfRow raw

/-- The rows of R76 by the fields of R75. -/
def Obligations.HalfClassesByFields : Prop :=
  ∀ raw : Half,
    (halfExp raw = 0 → halfMant raw = 0 → decodeHalfRow raw = .f16Zero (halfSign raw)) ∧
    (halfExp raw = 0 → halfMant raw ≠ 0 →
      decodeHalfRow raw = .f16Subnormal (halfSign raw) (halfMant raw)) ∧
    (halfExp raw = 31 → halfMant raw = 0 → decodeHalfRow raw = .f16Inf (halfSign raw)) ∧
    (halfExp raw = 31 → halfMant raw ≠ 0 →
      decodeHalfRow raw = .f16Nan (halfSign raw) (halfMant raw)) ∧
    (halfExp raw ≠ 0 → halfExp raw ≠ 31 →
      decodeHalfRow raw = .f16Normal (halfSign raw) (halfExp raw) (halfMant raw)) ∧
    (halfSign raw).toNat = raw.toNat / 32768 ∧ (halfExp raw).toNat = raw.toNat / 1024 % 32 ∧
    (halfMant raw).toNat = raw.toNat % 1024

/-- The frame as a word (R72): `FRAME(b) = {1, b[7:0], 0} = 512 + 2 * b`, bit 0 first, slot `k` carrying
`FRAME(b)[k]`; a word with another start or stop bit is no frame. -/
def Obligations.FrameWordForm : Prop :=
  (∀ b : Byte, (frameWord b).toNat = 512 + 2 * b.toNat) ∧
  (∀ b : Byte, frameWord b = 1#1 ++ b ++ 0#1) ∧
  (∀ (s : State) (k : Fin 10), (s.driveSlot k).txd = (frameWord s.seq.cur).getLsbD k) ∧
  frameWord 0x48 = 0b1010010000#10 ∧
  (List.range 10).map (frameWord 0x48).getLsbD =
    [false, false, false, false, true, false, false, true, false, true] ∧
  (∀ (w : FrameWord) (b : Byte), decodeRequest (.frame w) = .ok (.frame b) ↔ w = frameWord b)

/-- The levels of the ten slots: start 0, the data bits least significant first, stop 1 (R71). -/
def Obligations.FrameSlotLevels : Prop :=
  ∀ b : Byte,
    frameBit b 0 = false ∧ (∀ k : Nat, k < 8 → frameBit b (k + 1) = b.getLsbD k) ∧ frameBit b 9 = true

/-- Words written out bit by bit from the encodings of R72, R76 and R90 decode to what they stand for. -/
def Obligations.TableWordsDecode : Prop :=
  decodeTableWord 8 0b000 = some (.delay 0) ∧
  decodeTableWord 8 0b001 = some (.sendRaw []) ∧
  decodeTableWord 8 0b010 = some (.sendFmt ⟨[]⟩ []) ∧
  decodeTableWord 8 0b011 = some (.decode 0) ∧
  decodeTableWord 8 0b100 = some (.reconstruct []) ∧
  decodeTableWord 8 0b101 = some .reserved5 ∧
  decodeTableWord 8 0b110 = some .reserved6 ∧
  decodeTableWord 8 0b111 = some .reserved7 ∧
  decodeTableWord 16 0b1000000000000000 = some (.f16Zero true) ∧
  decodeTableWord 16 0b0000001111111111 = some (.f16Subnormal false 1023) ∧
  decodeTableWord 16 0b1111110000000000 = some (.f16Inf true) ∧
  decodeTableWord 16 0b0111111000000000 = some (.f16Nan false 512) ∧
  decodeTableWord 16 0b0011100011001101 = some (.f16Normal false 14 205) ∧
  decodeTableWord 10 0b1010010000 = some (.frame 0x48)

/-! ## The step -/

/-- When the next input is a request that decodes to a well-formed instruction, the step is that
instruction's meaning, at the state with the request taken.  The one instruction that cannot be requested is
the frame of a byte, SENDBYTE (R93). -/
def Obligations.StepRunsDecoded : Prop :=
  ∀ (s : State) (r : Request) (rest : List Input) (i : Instr),
    s.inputs = .request r :: rest → decodeRequest r = .ok i → i.wf s.cfg = true → (∀ b, i ≠ .frame b) →
      step s = exec i { s with inputs := rest }

/-- A request the decoder refuses, or whose `cycles` is wider than the counter, is refused by name
(R91, R92), and so is a frame word in every state: SENDBYTE cannot be requested from outside (R93). -/
def Obligations.StepRefusesIllegalRequest : Prop :=
  ∀ (s : State) (r : Request) (rest : List Input), s.inputs = .request r :: rest →
    (∀ e, decodeRequest r = .error e → step s = .refused (.badRequest e)) ∧
    (∀ i, decodeRequest r = .ok i → i.wf s.cfg = false → step s = .refused .illFormed) ∧
    (∀ b, decodeRequest r = .ok (.frame b) → step s = .refused .internalProcedure)

/-- A request whose selector is 5, 6 or 7 is refused, whatever comes with it and whatever the state (R92);
so are the reserved instructions. -/
def Obligations.ReservedSelectorsRefused : Prop :=
  (∀ (s : State) (sel : Selector) (args : Operands) (rest : List Input),
    s.inputs = .request (.op sel args) :: rest → 5 ≤ sel.toNat →
      step s = .refused (.reservedSelector sel)) ∧
  (∀ s : State, exec .reserved5 s = .refused (.reservedSelector 5)) ∧
  (∀ s : State, exec .reserved6 s = .refused (.reservedSelector 6)) ∧
  (∀ s : State, exec .reserved7 s = .refused (.reservedSelector 7))

/-- With a tick listed the step is the tick; other agents' writes take effect while unit TX is idle and are
refused during a transmitter operation (R33, R108, R214).  That the world is a list of inputs, and that an
untaken tick passes with none listed, is the model's choice (log 2); so is what an idle-time write does
(log 11). -/
def Obligations.StepOfOtherInputs : Prop :=
  ∀ (s : State) (rest : List Input),
    (s.inputs = [] → step s = passTick .none s) ∧
    (∀ p, s.inputs = .tick p :: rest → step s = passTick p { s with inputs := rest }) ∧
    (∀ v, s.inputs = .irqWrite v :: rest →
      step s = if s.busy then .refused .callerActed else .next { s with inputs := rest, irqen := v }) ∧
    (∀ v, s.inputs = .pinWrite v :: rest →
      step s = if s.busy then .refused .pinShared else .next { s with inputs := rest, txd := v }) ∧
    (∀ v, s.inputs = .counterWrite v :: rest →
      step s = if s.busy then .refused .counterWritten
        else .next { s with inputs := rest, cyccnt := v % 2 ^ s.cfg.cntW }) ∧
    (s.inputs = .messageWrite :: rest →
      step s = if s.busy then .refused .operandsChanged else .next { s with inputs := rest })

/-! ## Launch and invariant -/

/-- What R34 gives of the launch state: the pin idle-high, no operation running, not busy, and a bit period in
the range of R212. -/
def Obligations.LaunchState : Prop :=
  State.reset.txd = true ∧ State.reset.seq.mode = .idle ∧ State.reset.busy = false ∧
    1 ≤ State.reset.cfg.bitPeriod ∧ State.reset.cfg.bitPeriod ≤ 2 ^ State.reset.cfg.cntW - 1

/-- The launch state meets the invariant. -/
def Obligations.LaunchStateIsSafe : Prop := State.reset.Inv

/-- Every step keeps the invariant: the ranges of the counter and the wait, the masked window, the level and
length of the slot on the pin, the idle-high pin. -/
def Obligations.StepKeepsSafe : Prop :=
  ∀ s t : State, s.Inv → step s = .next t → t.Inv

/-! ## The counter and time -/

/-- Every tick adds one to `CYCCNT`, which wraps from `2^CNT_W - 1` to 0, and to the tick index, whoever has
the tick (R15, R22, R176). -/
def Obligations.TickAdvancesCounter : Prop :=
  ∀ (p : Preempt) (s t : State), passTick p s = .next t →
    t.cyccnt = (s.cyccnt + 1) % 2 ^ s.cfg.cntW ∧ t.tick = s.tick + 1

/-- No instruction writes the counter or takes a tick (R14, R22, D4, D27), and a step in which the counter or
the tick index moves is a tick, listed or with no input listed (the model's choice, log 2), or another agent's
write of the counter (the model's choice, log 11), which moves the counter alone. -/
def Obligations.OnlyTicksMoveCounter : Prop :=
  (∀ (i : Instr) (s t : State), exec i s = .next t →
    t.cyccnt = s.cyccnt ∧ t.tick = s.tick ∧ t.inputs = s.inputs) ∧
  (∀ s t : State, step s = .next t → (t.cyccnt ≠ s.cyccnt ∨ t.tick ≠ s.tick) →
    (s.inputs = [] ∨ ∃ p rest, s.inputs = .tick p :: rest) ∨
    (t.tick = s.tick ∧ ∃ v rest, s.inputs = .counterWrite v :: rest ∧ t.cyccnt = v % 2 ^ s.cfg.cntW))

/-- No step writes the configuration (R7, R24). -/
def Obligations.ConfigurationIsConstant : Prop :=
  ∀ s t : State, step s = .next t → t.cfg = s.cfg

/-- The elapsed count is `(a - b) mod 2^w` (R12), so it counts ticks across the wrap and does not depend on
where the counter stands (R101, R102). -/
def Obligations.ElapsedCountIsModular : Prop :=
  (∀ w a b : Nat, ((subW w a b : Nat) : Int) = ((a : Int) - (b : Int)) % ((2 ^ w : Nat) : Int)) ∧
  (∀ w a k : Nat, k < 2 ^ w → subW w (addW w a k) a = k) ∧
  (∀ w a b c : Nat, subW w (addW w a c) (addW w b c) = subW w a b) ∧
  subW 32 0x10 0xFFFFFFF0 = 0x20

/-- A tick with `IRQEN = 1` may be taken: then the counter ticks and unit TX does nothing.  With `IRQEN = 0` a
maskable source takes nothing, and a tick taken from a running operation by a source that cannot be masked
is refused (R176, R177). -/
def Obligations.TakenTicks : Prop :=
  ∀ s : State,
    (s.irqen = true → passTick .maskable s = .next s.countTick ∧ passTick .unmaskable s = .next s.countTick) ∧
    (s.irqen = false → passTick .maskable s = passTick .none s) ∧
    (s.irqen = false → s.busy = true → passTick .unmaskable s = .refused .unmaskablePreemption)

/-! ## DELAY -/

/-- `DELAY cycles` of an idle unit TX begins its wait from the counter's value, or returns at once when
`cycles = 0`; nothing else changes (R100, R102, R119). -/
def Obligations.DelayInvoked : Prop :=
  ∀ (cycles : Nat) (s : State), s.busy = false →
    exec (.delay cycles) s =
      .next (if cycles = 0 then s
        else { s with
          seq := { s.seq with mode := .run, kind := .delay, dstart := s.cyccnt, dlen := cycles } })

/-- `DELAY cycles` from which no tick is taken returns after exactly `cycles` ticks, wherever the counter
stands, for every `cycles` of `CNT_W` bits; the pin and `IRQEN` keep their levels (R100, R102, R103). -/
def Obligations.DelayLastsExactly : Prop :=
  ∀ (cycles : Nat) (s : State), s.busy = false → s.cyccnt < 2 ^ s.cfg.cntW → cycles < 2 ^ s.cfg.cntW →
    s.undisturbed →
    ∃ s0, exec (.delay cycles) s = .next s0 ∧
      (∀ k, k < cycles → ∃ t, steps k s0 = .next t ∧ t.busy = true ∧ t.txd = s.txd ∧ t.irqen = s.irqen) ∧
      ∃ t, steps cycles s0 = .next t ∧ t.busy = false ∧ t.txd = s.txd ∧ t.irqen = s.irqen ∧
        t.cyccnt = (s.cyccnt + cycles) % 2 ^ s.cfg.cntW ∧ t.tick = s.tick + cycles

/-- A running DELAY returns at a tick exactly when the tick is not taken and the elapsed count has reached
`cycles`: never earlier, and later when ticks are taken (R103). -/
def Obligations.DelayNeverEarly : Prop :=
  ∀ (p : Preempt) (s t : State), s.seq.mode = .run → s.seq.kind = .delay → s.rendering = none →
    passTick p s = .next t →
      (t.seq.mode = .idle ↔
        untaken p s ∧ s.seq.dlen ≤ subW s.cfg.cntW ((s.cyccnt + 1) % 2 ^ s.cfg.cntW) s.seq.dstart) ∧
      (t.seq.mode ≠ .idle → t = s.countTick) ∧ t.txd = s.txd ∧ t.irqen = s.irqen

/-! ## SENDRAW -/

/-- The entry of `SENDRAW` on a message that is not empty: `IRQEN` is saved and cleared, the start bit of the
first byte is on the pin, its wait of `P` ticks begins; nothing else changes (R110, R112, R119). -/
def Obligations.SendRawInvoked : Prop :=
  ∀ (b : Byte) (rest : List Byte) (s : State), s.busy = false →
    exec (.sendRaw (b :: rest)) s =
      .next { s with
        irqsave := s.irqen
        irqen := false
        txd := false
        seq := ⟨.run, .sendRaw, rest, b, 0, s.cyccnt, s.cfg.bitPeriod⟩ }

/-- The empty message: `SENDRAW []` returns at the tick it was invoked and leaves every piece of state as it
found it except the dead cell `IRQSAVE` (R114), and the model's count of drawn cells. -/
def Obligations.SendRawEmptyMessage : Prop :=
  ∀ s : State, s.busy = false →
    ∃ v, exec (.sendRaw []) s = .next { s with irqsave := v, draws := s.draws + 1 }

/-- The closed form of `SENDRAW` (R118), with the launch premise `TXD = 1` of R111: slot `k` of byte `j` is on the pin for the ticks
`(10 * j + k) * P + t`, `t < P`, with `IRQEN = 0` and unit TX busy; after `10 * n * P` ticks it has returned,
the pin is 1 and stays 1, `IRQEN` is as it was before, and the counter has moved by the ticks that passed. -/
def Obligations.SendRawWaveform : Prop :=
  ∀ (bytes : List Byte) (s : State),
    s.busy = false → s.txd = true → s.cyccnt < 2 ^ s.cfg.cntW → s.quiet →
    ∃ s0, exec (.sendRaw bytes) s = .next s0 ∧
      (∀ (j k t : Nat) (hj : j < bytes.length), k < 10 → t < s.cfg.bitPeriod →
        ∃ u, steps ((10 * j + k) * s.cfg.bitPeriod + t) s0 = .next u ∧
          u.txd = frameBit bytes[j] k ∧ u.irqen = false ∧ u.busy = true) ∧
      (∀ d : Nat, ∃ u, steps (10 * bytes.length * s.cfg.bitPeriod + d) s0 = .next u ∧
        u.busy = false ∧ u.irqen = s.irqen ∧ u.txd = true ∧
        u.cyccnt = (s.cyccnt + 10 * bytes.length * s.cfg.bitPeriod + d) % 2 ^ s.cfg.cntW ∧
        u.tick = s.tick + 10 * bytes.length * s.cfg.bitPeriod + d)

/-- When `SENDRAW` returns, every live cell but the counter, which has moved by the ticks, is as it was (R57,
R179): the configuration, `IRQEN`, `MODE` and `BUSY`, the pin that was at 1; and so are the buffer, the result
interface and the rendering draws.  Whatever level the pin had before, a message that is not empty leaves it
at 1 and the empty one as it was (R115). -/
def Obligations.SendRawLeavesRest : Prop :=
  ∀ (bytes : List Byte) (s : State), s.busy = false → s.cyccnt < 2 ^ s.cfg.cntW → s.quiet →
    ∃ s0 u, exec (.sendRaw bytes) s = .next s0 ∧
      steps (10 * bytes.length * s.cfg.bitPeriod) s0 = .next u ∧
      u.cyccnt = (s.cyccnt + 10 * bytes.length * s.cfg.bitPeriod) % 2 ^ s.cfg.cntW ∧
      u.cfg = s.cfg ∧ (s.txd = true → u.txd = s.txd) ∧ (bytes ≠ [] → u.txd = true) ∧
      (bytes = [] → u.txd = s.txd) ∧ u.irqen = s.irqen ∧ u.seq.mode = s.seq.mode ∧ u.busy = s.busy ∧
      u.fmtbuf = s.fmtbuf ∧ u.rendering = s.rendering ∧ u.result = s.result ∧ u.renderTicks = s.renderTicks

/-- The waveform does not depend on where the counter stands at the invocation (R102, R118), with the launch
premise of R111. -/
def Obligations.WaveformIgnoresCounter : Prop :=
  ∀ (bytes : List Byte) (s : State) (c k : Nat) (s0 s1 : State),
    s.busy = false → s.txd = true → s.cyccnt < 2 ^ s.cfg.cntW → c < 2 ^ s.cfg.cntW → s.quiet →
    exec (.sendRaw bytes) s = .next s0 → exec (.sendRaw bytes) { s with cyccnt := c } = .next s1 →
      s0.levelAfter k = s1.levelAfter k

/-- The reference receiver of R190 reads the message back from the pin, for every message and bit period:
line idle before the invocation, then the levels of the run, and any number of looks that covers it.  The
receiver is the model's rendering of a general-knowledge passage (log 10). -/
def Obligations.ReceiverReadsMessage : Prop :=
  ∀ (bytes : List Byte) (s s0 : State) (fuel : Nat),
    s.busy = false → s.txd = true → s.cyccnt < 2 ^ s.cfg.cntW → s.quiet →
    exec (.sendRaw bytes) s = .next s0 → 10 * bytes.length * s.cfg.bitPeriod ≤ fuel →
      receive s.cfg.bitPeriod (fun k => if k = 0 then s.txd else s0.levelAfter (k - 1)) fuel 0 = bytes

/-- A transmitter operation requested while one is running, or while SENDFMT renders, is refused (R29, R108);
a frame word requested then is refused as it always is (R93). -/
def Obligations.BusyRequestsRefused : Prop :=
  ∀ s : State, s.busy = true →
    (∀ cycles, exec (.delay cycles) s = .refused .busy) ∧
    (∀ bytes, exec (.sendRaw bytes) s = .refused .busy) ∧
    (∀ format args, exec (.sendFmt format args) s = .refused .busy) ∧
    (∀ b rest, s.inputs = .request (.frame (frameWord b)) :: rest → step s = .refused .internalProcedure)

/-! ## SENDFMT -/

/-- The buffer after the write step: the first `k = min(len, 127)` bytes of the text and `0x00` at index `k`
(R122, R123).  That the bytes after it are as they were is the model's choice (log 5): U19 lets them be any. -/
def Obligations.BufferHoldsTruncatedText : Prop :=
  ∀ (text : List Byte) (buf : FmtBuf),
    (∀ (i : Fin fmtSize) (h : i.val < text.length), i.val < 127 → memRead (fillBuf text buf) i = text[i.val]) ∧
    (∀ i : Fin fmtSize, i.val = min text.length 127 → memRead (fillBuf text buf) i = 0) ∧
    (∀ i : Fin fmtSize, min text.length 127 < i.val → memRead (fillBuf text buf) i = memRead buf i)

/-- What is handed to SENDRAW (R124, R126): the bytes of the truncated text before the first zero byte, so at
most 127 bytes, and never the terminator. -/
def Obligations.TransmittedTextEndsAtZero : Prop :=
  ∀ (text : List Byte) (buf : FmtBuf),
    cstr (fillBuf text buf) = (text.take 127).takeWhile (· ≠ 0) ∧
    (cstr (fillBuf text buf)).length ≤ 127 ∧ (0 : Byte) ∉ cstr (fillBuf text buf) ∧
    (∀ i, i < min text.length 127 → text[i]? = some 0 → (∀ j, j < i → text[j]? ≠ some 0) →
      cstr (fillBuf text buf) = text.take i)

/-- `SENDFMT` of an idle unit TX (R120, R121).  With `n > 0` ticks to render it renders, outside the masked
window, and nothing else changes; with none it writes the buffer and enters SENDRAW with what the buffer
holds before its first zero byte.  That the time comes from the draws is the model's choice (log 6). -/
def Obligations.SendFmtInvoked : Prop :=
  ∀ (format : Template) (args : List Arg) (s : State), s.busy = false →
    (∀ n, s.renderTicks.headD 0 = n + 1 →
      exec (.sendFmt format args) s =
        .next { s with
          renderTicks := s.renderTicks.tail
          rendering := some ⟨Config.render format args, n + 1⟩ }) ∧
    (s.renderTicks.headD 0 = 0 →
      (∀ b rest, cstr (fillBuf (Config.render format args) s.fmtbuf) = b :: rest →
        exec (.sendFmt format args) s =
          .next { s with
            renderTicks := s.renderTicks.tail
            fmtbuf := fillBuf (Config.render format args) s.fmtbuf
            irqsave := s.irqen
            irqen := false
            txd := false
            seq := ⟨.run, .sendFmt, rest, b, 0, s.cyccnt, s.cfg.bitPeriod⟩ }) ∧
      (cstr (fillBuf (Config.render format args) s.fmtbuf) = [] →
        ∃ v buf, exec (.sendFmt format args) s =
          .next { s with
            renderTicks := s.renderTicks.tail
            fmtbuf := buf
            irqsave := v
            draws := s.draws + 2 }))

/-- Rendering goes on only in ticks unit TX has; the pin and `IRQEN` keep their levels and unit TX is busy;
after the last of its ticks the text is written and SENDRAW entered on the bytes before its first zero, which
returns at once when there are none (R114, R121, R176).  The ticks are counted by the model (log 6), and the
cells dead after the return are free (log 5). -/
def Obligations.RenderingOutsideMask : Prop :=
  ∀ (s : State) (r : Rendering), s.rendering = some r →
    s.busy = true ∧
    (1 < r.left → passTick .none s =
      .next { s with
        cyccnt := (s.cyccnt + 1) % 2 ^ s.cfg.cntW
        tick := s.tick + 1
        rendering := some ⟨r.text, r.left - 1⟩ }) ∧
    (s.irqen = true → passTick .maskable s =
      .next { s with cyccnt := (s.cyccnt + 1) % 2 ^ s.cfg.cntW, tick := s.tick + 1 }) ∧
    (r.left ≤ 1 → ∀ b rest, cstr (fillBuf r.text s.fmtbuf) = b :: rest → passTick .none s =
      .next { s with
        cyccnt := (s.cyccnt + 1) % 2 ^ s.cfg.cntW
        tick := s.tick + 1
        rendering := none
        fmtbuf := fillBuf r.text s.fmtbuf
        irqsave := s.irqen
        irqen := false
        txd := false
        seq := ⟨.run, .sendFmt, rest, b, 0, (s.cyccnt + 1) % 2 ^ s.cfg.cntW, s.cfg.bitPeriod⟩ }) ∧
    (r.left ≤ 1 → cstr (fillBuf r.text s.fmtbuf) = [] → ∃ v buf, passTick .none s =
      .next { s with
        cyccnt := (s.cyccnt + 1) % 2 ^ s.cfg.cntW
        tick := s.tick + 1
        rendering := none
        fmtbuf := buf
        irqsave := v
        draws := s.draws + 2 })

/-- `SENDFMT` from its invocation to its return (R120, R121, R122, R124, R126, R127), with the launch premise
of R111.  Rendering takes some finite number `d` of ticks, at least those drawn for it, and exactly those when
no tick is taken; for all of them unit TX is busy, the pin at 1 and `IRQEN` untouched.  From then on the frames
of the truncated text up to its first zero byte are on the pin, masked, for at most `1270 * P` ticks, and then
`IRQEN` is as it was.  That the ticks of a rendering are drawn is the model's choice (log 6). -/
def Obligations.SendFmtWaveform : Prop :=
  ∀ (format : Template) (args : List Arg) (s : State) (sent : List Byte),
    s.busy = false → s.txd = true → s.cyccnt < 2 ^ s.cfg.cntW → s.quiet →
    sent = ((Config.render format args).take 127).takeWhile (· ≠ 0) →
    10 * sent.length * s.cfg.bitPeriod ≤ 1270 * s.cfg.bitPeriod ∧
    ∃ s0 d, exec (.sendFmt format args) s = .next s0 ∧ s.renderTicks.headD 0 ≤ d ∧
      (s.renderTicks.headD 0 = 0 → d = 0) ∧ (s.undisturbed → d = s.renderTicks.headD 0) ∧
      (∀ i, i < d → ∃ u, steps i s0 = .next u ∧ u.busy = true ∧ u.txd = true ∧ u.irqen = s.irqen) ∧
      (∀ (j k t : Nat) (hj : j < sent.length), k < 10 → t < s.cfg.bitPeriod →
        ∃ u, steps (d + ((10 * j + k) * s.cfg.bitPeriod + t)) s0 = .next u ∧
          u.txd = frameBit sent[j] k ∧ u.irqen = false ∧ u.busy = true) ∧
      (∀ e : Nat, ∃ u, steps (d + (10 * sent.length * s.cfg.bitPeriod + e)) s0 = .next u ∧
        u.busy = false ∧ u.irqen = s.irqen ∧ u.txd = true)

/-! ## One frame -/

/-- `SENDBYTE b` invoked by a running SENDRAW: the start bit is on the pin and the wait begins, nothing else
changes, and `IRQEN` is not touched (R105).  Where no SENDRAW runs it cannot be invoked (R93).  It is what
SENDRAW invokes at its entry, after the save and clear, and at the end of each frame but the last (R110, R113,
R119).  That the word of a frame is an instruction with this meaning is the model's choice (log 4). -/
def Obligations.FrameInvoked : Prop :=
  ∀ (b : Byte) (s : State),
    (s.inWindow → exec (.frame b) s =
      .next { s with txd := false, seq := { s.seq with cur := b, slot := 0, dstart := s.cyccnt } }) ∧
    (¬ s.inWindow → exec (.frame b) s = .refused .internalProcedure) ∧
    (∀ rest, s.busy = false → exec (.sendRaw (b :: rest)) s =
      exec (.frame b) { s with
        irqsave := s.irqen
        irqen := false
        seq := { s.seq with mode := .run, kind := .sendRaw, rest := rest, dlen := s.cfg.bitPeriod } }) ∧
    (∀ rest, s.inWindow → s.rendering = none → s.seq.slot = 9 → s.seq.rest = b :: rest →
      s.seq.dlen ≤ s.elapsed → exec (.frame b) { s with seq := { s.seq with rest := rest } } = .next s.act)

/-- One frame in a SENDRAW is ten slots, each held for exactly `P` ticks and masked (R105, R106).  After them
SENDBYTE has returned to SENDRAW: the start slot of the next byte is on the pin (R113), or, when there is
none, the pin is at 1, unit TX idle and the mask restored (R117).  Premises: `TXD = 1` (R111), the masked
window masked (R175), and the wait of a slot `P` ticks, as SENDRAW sets them (R119).  Log 4. -/
def Obligations.FrameShape : Prop :=
  ∀ (b : Byte) (s : State), s.inWindow → s.rendering = none → s.irqen = false → s.txd = true →
    s.seq.dlen = s.cfg.bitPeriod → s.cyccnt < 2 ^ s.cfg.cntW → s.quiet →
    ∃ s0, exec (.frame b) s = .next s0 ∧
      (∀ k t : Nat, k < 10 → t < s.cfg.bitPeriod →
        ∃ u, steps (k * s.cfg.bitPeriod + t) s0 = .next u ∧
          u.txd = frameBit b k ∧ u.irqen = false ∧ u.busy = true) ∧
      ∃ u, steps (10 * s.cfg.bitPeriod) s0 = .next u ∧
        u.cyccnt = (s.cyccnt + 10 * s.cfg.bitPeriod) % 2 ^ s.cfg.cntW ∧
        (s.seq.rest = [] → u.busy = false ∧ u.txd = true ∧ u.irqen = s.irqsave) ∧
        (∀ c rest, s.seq.rest = c :: rest →
          u.inWindow ∧ u.irqen = false ∧ u.txd = false ∧ u.seq.cur = c ∧ u.seq.slot = 0 ∧ u.seq.rest = rest)

/-! ## Whole-machine rules -/

/-- Apart from a foreign write, the pin changes only to the level of a slot of a frame in flight (R23), which
is one of a SENDRAW (R105), in its masked window with `IRQEN = 0` (R175, from a state that meets the
invariant). -/
def Obligations.PinCarriesOnlyFrames : Prop :=
  ∀ s t : State, step s = .next t → (∀ v rest, s.inputs ≠ .pinWrite v :: rest) →
    t.txd = s.txd ∨
    (t.inFrame ∧ t.inWindow ∧ t.txd = frameBit t.seq.cur t.seq.slot ∧ (s.Inv → t.irqen = false))

/-- `IRQEN` changes only by the calling core's own write, by the entry into the masked window, which clears
it, and by the exit from it, which restores the saved bit (R25, R117). -/
def Obligations.MaskWriters : Prop :=
  ∀ s t : State, step s = .next t → t.irqen ≠ s.irqen →
    (∃ v rest, s.inputs = .irqWrite v :: rest) ∨
    (t.inWindow ∧ t.irqen = false ∧ t.irqsave = s.irqen) ∨
    (s.inWindow ∧ t.seq.mode = .idle ∧ t.irqen = s.irqsave)

/-- Only SENDFMT writes the buffer: when its rendering ends, at its request, or when its content dies at
its end (R27). -/
def Obligations.BufferWriters : Prop :=
  ∀ s t : State, step s = .next t → t.fmtbuf ≠ s.fmtbuf →
    s.rendering ≠ none ∨
    (∃ format args rest, s.inputs = .request (.op 2 (.text format args)) :: rest) ∨
    (s.seq.mode = .run ∧ s.seq.kind = .sendFmt ∧ t.seq.mode = .idle)

/-- Unit DEC has no state and no effect but its result: its operations change the result interface and nothing
else, whatever unit TX is doing (R30, R57, R64).  That a bare word of a class row can be requested, with
DECODE's effect, is the model's choice (log 4). -/
def Obligations.DecoderOnlyDelivers : Prop :=
  ∀ (i : Instr) (s t : State),
    ((∃ raw, i = .decode raw) ∨ (∃ rs, i = .reconstruct rs) ∨ (∃ raw, i = decodeHalfRow raw)) →
    exec i s = .next t → ∃ r, t = { s with result := some r }

/-- No transmitter operation, no tick and no other input changes the result of unit DEC (R2). -/
def Obligations.ResultOnlyFromDecoder : Prop :=
  ∀ s t : State, step s = .next t → t.result ≠ s.result →
    ∃ r rest, s.inputs = .request r :: rest ∧
      ((∃ raw, r = .op 3 (.raw raw)) ∨ (∃ rs, r = .op 4 (.readings rs)) ∨ (∃ raw, r = .half raw))

/-! ## DECODE -/

/-- `DECODE raw` hands its value to the caller in every state and changes nothing else (R140). -/
def Obligations.DecodeCompletes : Prop :=
  ∀ (raw : Half) (s : State), exec (.decode raw) s = .next { s with result := some (.float (decodeHalf raw)) }

/-- A word of a class row has the meaning DECODE has on it (R76, R140).  That a bare word can be requested is
the model's choice (log 4). -/
def Obligations.DecodeIsItsClassRow : Prop :=
  ∀ (raw : Half) (s : State), exec (decodeHalfRow raw) s = exec (.decode raw) s

/-- The class rows complete in every state, with the patterns of R146.  That a class row can be executed as a
bare word is the model's choice (log 4). -/
def Obligations.ClassRowsComplete : Prop :=
  (∀ (sg : Bit) (s : State), exec (.f16Zero sg) s =
    .next { s with result := some (.float (BitVec.ofNat 32 (sg.toNat * 2 ^ 31))) }) ∧
  (∀ (sg : Bit) (m : BitVec 10) (k : Nat) (s : State), 2 ^ k ≤ m.toNat → m.toNat < 2 ^ (k + 1) →
    exec (.f16Subnormal sg m) s =
      .next { s with result := some (.float (BitVec.ofNat 32
        (sg.toNat * 2 ^ 31 + (k + 103) * 2 ^ 23 + (m.toNat - 2 ^ k) * 2 ^ (23 - k)))) }) ∧
  (∀ (sg : Bit) (s : State), exec (.f16Inf sg) s =
    .next { s with result := some (.float (BitVec.ofNat 32 (sg.toNat * 2 ^ 31 + 0x7F800000))) }) ∧
  (∀ (sg : Bit) (m : BitVec 10) (s : State), ∃ v, isNaN v = true ∧
    exec (.f16Nan sg m) s = .next { s with result := some (.float v) }) ∧
  (∀ (sg : Bit) (e : BitVec 5) (m : BitVec 10) (s : State), 1 ≤ e.toNat → e.toNat ≤ 30 →
    exec (.f16Normal sg e m) s =
      .next { s with result := some (.float (BitVec.ofNat 32
        (sg.toNat * 2 ^ 31 + (e.toNat + 112) * 2 ^ 23 + m.toNat * 2 ^ 13))) })

/-- The zeros keep their sign and the infinities theirs (R141, R143), with the source's examples. -/
def Obligations.ZerosAndInfinities : Prop :=
  (∀ raw : Half, halfExp raw = 0 → halfMant raw = 0 →
    decodeHalf raw = BitVec.ofBool (halfSign raw) ++ 0#31) ∧
  (∀ raw : Half, halfExp raw = 31 → halfMant raw = 0 →
    decodeHalf raw = BitVec.ofBool (halfSign raw) ++ 0x7F800000#31) ∧
  decodeHalf 0x0000 = 0x00000000 ∧ decodeHalf 0x8000 = 0x80000000 ∧
  decodeHalf 0x7C00 = 0x7F800000 ∧ decodeHalf 0xFC00 = 0xFF800000

/-- The finite values, exactly (R142, R145, R146): the result stands for `(-1)^s * m * 2^(-24)` or
`(-1)^s * (1024 + m) * 2^(e - 25)`.  Both sides are scaled by `2^149`, the reciprocal of the least binary32. -/
def Obligations.DecodeIsExact : Prop :=
  ∀ raw : Half, halfExp raw ≠ 31 →
    ∃ (M : Nat) (E : Int), unpack (decodeHalf raw) = .fin (halfSign raw) M E ∧ -149 ≤ E ∧
      M * 2 ^ (E + 149).toNat =
        if halfExp raw = 0 then (halfMant raw).toNat * 2 ^ 125
        else (1024 + (halfMant raw).toNat) * 2 ^ ((halfExp raw).toNat + 124)

/-- `DECODE raw` is a NaN exactly for the patterns with `e = 31` and `m ≠ 0`, whatever bit 9 is (R144). -/
def Obligations.DecodeNaNClass : Prop :=
  ∀ raw : Half, isNaN (decodeHalf raw) = true ↔ halfExp raw = 31 ∧ halfMant raw ≠ 0

/-- For every `raw` that is not in class NAN, changing its sign bit negates the value, the zeros and the
infinities included (R147). -/
def Obligations.DecodeNegates : Prop :=
  ∀ raw : Half, ¬ (halfExp raw = 31 ∧ halfMant raw ≠ 0) →
    decodeHalf (raw ^^^ 0x8000) = f32Neg (decodeHalf raw)

/-- From `0x0000` to `0x7C00` the decoded value is strictly increasing in the pattern (R148). -/
def Obligations.DecodeIsIncreasing : Prop :=
  ∀ a b : Half, a.toNat < b.toNat → b.toNat ≤ 0x7C00 → f32Lt (decodeHalf a) (decodeHalf b) = true

/-! ## RECONSTRUCT -/

/-- With each axis identity consumed exactly once, the result is the three decoded components unchanged and
the `w` solved with the configuration's `F32`; otherwise it is `MissingOrDuplicateAxis`, no part of a
quaternion is returned, and no state changes (R154, R155, R156, R158, R181). -/
def Obligations.ReconstructCompletes : Prop :=
  ∀ (readings : List Reading) (s : State) (axis : RegId → List Reading),
    (∀ id, axis id = readings.filter (fun r => r.res = s.cfg.res16 ∧ r.id = id)) →
    (∀ rx ry rz, axis s.cfg.regQX = [rx] → axis s.cfg.regQY = [ry] → axis s.cfg.regQZ = [rz] →
      exec (.reconstruct readings) s =
        .next { s with
          result := some (.quaternion
            { w := solveW (f32Ops s.cfg.arith) (decodeHalf rx.raw) (decodeHalf ry.raw) (decodeHalf rz.raw)
              x := decodeHalf rx.raw
              y := decodeHalf ry.raw
              z := decodeHalf rz.raw }) }) ∧
    (((axis s.cfg.regQX).length ≠ 1 ∨ (axis s.cfg.regQY).length ≠ 1 ∨ (axis s.cfg.regQZ).length ≠ 1) →
      exec (.reconstruct readings) s =
        .next { s with result := some (.error .missingOrDuplicateAxis) })

/-- Order independence and freshness (R159): the readings in another order, and with skipped entries put in,
give the same result, and nothing of the state but the configuration enters it. -/
def Obligations.ReconstructIgnoresOrder : Prop :=
  (∀ (rs rs' : List Reading) (s : State), rs.Perm rs' → exec (.reconstruct rs) s = exec (.reconstruct rs') s) ∧
  (∀ (rs rs' : List Reading) (r : Reading) (s : State),
    (r.res ≠ s.cfg.res16 ∨ (r.id ≠ s.cfg.regQX ∧ r.id ≠ s.cfg.regQY ∧ r.id ≠ s.cfg.regQZ)) →
      exec (.reconstruct (rs ++ r :: rs')) s = exec (.reconstruct (rs ++ rs')) s) ∧
  (∀ (rs : List Reading) (s t s' t' : State), s.cfg = t.cfg →
    exec (.reconstruct rs) s = .next s' → exec (.reconstruct rs) t = .next t' → s'.result = t'.result)

/-! ## The solver -/

/-- The order of evaluation of R151, for every instance of the parameter `F32`, and the clamp of R152: a
radicand less than zero is replaced by `+0.0`, any other is kept.  The default instance is `ieee` (R150; its
format is PRESUMED, log 9). -/
def Obligations.SolverClamps : Prop :=
  f32Ops .ieee = ieee ∧ ∀ (ops : F32Ops) (x y z : F32),
    (ops.lt (radicand ops x y z) 0x00000000 = true → solveW ops x y z = ops.sqrt 0x00000000) ∧
    (ops.lt (radicand ops x y z) 0x00000000 = false → solveW ops x y z = ops.sqrt (radicand ops x y z)) ∧
    radicand ops x y z =
      ops.sub 0x3F800000 (ops.add (ops.add (ops.mul x x) (ops.mul y y)) (ops.mul z z))

/-- A negative radicand gives `w = +0.0`, exactly and not a NaN (R152), under the default `F32` and under any
other with the properties R150 lists (D18). -/
def Obligations.NegativeRadicandGivesZero : Prop :=
  (∀ x y z : F32, f32Lt (radicand ieee x y z) 0x00000000 = true →
    solveW ieee x y z = 0x00000000 ∧ isNaN (solveW ieee x y z) = false) ∧
  (∀ (ops : F32Ops) (x y z : F32), ListedProperties ops → ops.lt (radicand ops x y z) 0x00000000 = true →
    solveW ops x y z = 0x00000000 ∧ isNaN (solveW ops x y z) = false)

/-- A NaN component gives a NaN `w`: no clamp hides it (R153), under the default `F32`, which is PRESUMED
(log 9), and under any other with the properties R150 lists (D18). -/
def Obligations.NaNComponentGivesNaN : Prop :=
  ∀ x y z : F32, (isNaN x = true ∨ isNaN y = true ∨ isNaN z = true) →
    isNaN (solveW ieee x y z) = true ∧
    ∀ ops : F32Ops, ListedProperties ops → isNaN (solveW ops x y z) = true

/-- An infinite component and no NaN: the radicand is minus infinity, clamped to `w = +0.0` (R153). -/
def Obligations.InfiniteComponentClamps : Prop :=
  ∀ x y z : F32, isNaN x = false → isNaN y = false → isNaN z = false →
    (f32Mag x = 0x7F800000 ∨ f32Mag y = 0x7F800000 ∨ f32Mag z = 0x7F800000) →
      radicand ieee x y z = 0xFF800000 ∧ solveW ieee x y z = 0x00000000

/-- `w` is never negative and never `-0.0`: its sign bit is 0 unless it is a NaN (R153). -/
def Obligations.SolvedWIsNonNegative : Prop :=
  ∀ x y z : F32, isNaN (solveW ieee x y z) = true ∨ f32Sign (solveW ieee x y z) = false

/-- Without a NaN, `w` is a number: no operand of the solver makes it a NaN (R152, R153). -/
def Obligations.SolvedWIsNumber : Prop :=
  ∀ x y z : F32, isNaN x = false → isNaN y = false → isNaN z = false → isNaN (solveW ieee x y z) = false

/-- The signs of the components have no effect on `w` (R153). -/
def Obligations.SignsDoNotMatter : Prop :=
  ∀ x y z : F32, isNaN x = false → isNaN y = false → isNaN z = false →
    solveW ieee (f32Neg x) y z = solveW ieee x y z ∧ solveW ieee x (f32Neg y) z = solveW ieee x y z ∧
      solveW ieee x y (f32Neg z) = solveW ieee x y z

/-- The default `F32` has every property R150 lists, and with it the source's unit-norm example (R151) gives
the pattern nearest 0.8, so it meets every `FLOAT_TOL` of at least `2^-24` (D33).  The default `F32` is
PRESUMED (log 9); that the tolerance bounds the absolute difference from the exact 4/5 is the model's choice
(log 19). -/
def Obligations.DefaultFloatSpecials : Prop :=
  (ieee.mul 0x7F800000 0x7F800000 = 0x7F800000 ∧ ieee.sub 0x3F800000 0x7F800000 = 0xFF800000 ∧
    ieee.sqrt 0x00000000 = 0x00000000 ∧ ieee.sqrt 0x80000000 = 0x80000000 ∧
    ieee.lt 0x80000000 0x00000000 = false ∧ ieee.lt 0x00000000 0x80000000 = false ∧
    (∀ a b : F32, isNaN a = true ∨ isNaN b = true →
      isNaN (ieee.mul a b) = true ∧ isNaN (ieee.add a b) = true ∧ isNaN (ieee.sub a b) = true ∧
        ieee.lt a b = false) ∧
    (∀ a : F32, isNaN a = true ∨ ieee.lt a 0x00000000 = true → isNaN (ieee.sqrt a) = true)) ∧
  ListedProperties ieee ∧
  solveW ieee 0x3F19999A 0 0 = 0x3F4CCCCD ∧
  (∀ cfg : Params, cfg.arith = .ieee → 1 / 2 ^ 24 ≤ cfg.floatTol → meetsFloatTol cfg)

/-- The rounding of the default `F32` is to nearest with ties to even: its rounding step, the integer root
under its square root, and the packing of `(-1)^s * m * 2^e` into the nearest binary32 with that sign (R150;
PRESUMED, log 9). -/
def Obligations.RoundingIsNearestEven : Prop :=
  (∀ m k : Nat,
    2 * (rneShift m k * 2 ^ k) ≤ 2 * m + 2 ^ k ∧ 2 * m ≤ 2 * (rneShift m k * 2 ^ k) + 2 ^ k ∧
    ((2 * (rneShift m k * 2 ^ k) = 2 * m + 2 ^ k ∨ 2 * m = 2 * (rneShift m k * 2 ^ k) + 2 ^ k) →
      rneShift m k % 2 = 0)) ∧
  (∀ n : Nat, n < 2 ^ 80 → isqrt n * isqrt n ≤ n ∧ n < (isqrt n + 1) * (isqrt n + 1)) ∧
  (∀ (s : Bit) (m : Nat) (e : Int),
    CorrectlyRounded ((signedInt s m : ℝ) * (2 : ℝ) ^ e) (roundPack s m e) ∧ f32Sign (roundPack s m e) = s)

/-- Every operation of the default `F32` on finite operands is the exact result correctly rounded to nearest
with ties to even, and the comparison is that of the values (R150).  A zero product has the exclusive or of
the signs; an exact zero sum is `+0` unless both operands are negative.  PRESUMED (log 9). -/
def Obligations.OperationsAreCorrectlyRounded : Prop :=
  (∀ (a b : F32) (p q : Rat), f32Value a = some p → f32Value b = some q →
    CorrectlyRounded ((p : ℝ) * q) (ieee.mul a b) ∧
    (p * q = 0 → f32Sign (ieee.mul a b) = (f32Sign a ^^ f32Sign b)) ∧
    CorrectlyRounded ((p : ℝ) + q) (ieee.add a b) ∧
    (p + q = 0 → f32Sign (ieee.add a b) = (f32Sign a && f32Sign b)) ∧
    CorrectlyRounded ((p : ℝ) - q) (ieee.sub a b) ∧
    (ieee.lt a b = true ↔ p < q)) ∧
  (∀ (a : F32) (p : Rat), f32Value a = some p → 0 ≤ p → CorrectlyRounded (Real.sqrt p) (ieee.sqrt a))
end

