-- ==== Sys2Proof/Laws/Bits.lean ====
section
/-! SUPPORT. The bits and fields of the two word formats: the half-precision value (R75) and the frame (R72). -/

namespace Sys2Proof

theorem halfWord_getLsbD (s : Bit) (e : BitVec 5) (m : BitVec 10) (k : Nat) :
    (halfWord s e m).getLsbD k =
      if k < 10 then m.getLsbD k
      else if k - 10 < 5 then e.getLsbD (k - 10)
      else (BitVec.ofBool s).getLsbD (k - 10 - 5) := by
  show BitVec.getLsbD (w := 1 + 5 + 10) (BitVec.ofBool s ++ e ++ m) k = _
  rw [BitVec.getLsbD_append]
  show (if k < 10 then _ else BitVec.getLsbD (w := 1 + 5) (BitVec.ofBool s ++ e) (k - 10)) = _
  rw [BitVec.getLsbD_append]

theorem halfSign_halfWord (s : Bit) (e : BitVec 5) (m : BitVec 10) : halfSign (halfWord s e m) = s := by
  rw [halfSign, halfWord_getLsbD]
  cases s <;> simp

theorem halfExp_halfWord (s : Bit) (e : BitVec 5) (m : BitVec 10) : halfExp (halfWord s e m) = e := by
  ext i hi
  have h1 : ¬ 10 + i < 10 := by omega
  rw [halfExp, BitVec.getElem_extractLsb', halfWord_getLsbD]
  simp [h1, hi]

theorem halfMant_halfWord (s : Bit) (e : BitVec 5) (m : BitVec 10) : halfMant (halfWord s e m) = m := by
  ext i hi
  rw [halfMant, BitVec.getElem_extractLsb', halfWord_getLsbD]
  simp [hi]

/-- A raw word is put together again from its three fields. -/
theorem halfWord_fields (raw : Half) : halfWord (halfSign raw) (halfExp raw) (halfMant raw) = raw := by
  apply BitVec.eq_of_getLsbD_eq
  intro k hk
  rw [halfWord_getLsbD]
  simp only [halfSign, halfExp, halfMant, BitVec.getLsbD_extractLsb']
  split
  · simp_all
  · split
    · have : 10 + (k - 10) = k := by omega
      simp_all
    · have : k = 15 := by omega
      subst this
      simp

theorem halfWord_inj {s t : Bit} {e f : BitVec 5} {m n : BitVec 10} :
    halfWord s e m = halfWord t f n ↔ s = t ∧ e = f ∧ m = n := by
  constructor
  · intro h
    exact ⟨by simpa [halfSign_halfWord] using congrArg halfSign h,
      by simpa [halfExp_halfWord] using congrArg halfExp h,
      by simpa [halfMant_halfWord] using congrArg halfMant h⟩
  · rintro ⟨rfl, rfl, rfl⟩
    rfl

/-! ## The masks of the class rows, by fields (R76) -/

theorem and_magMask (raw : Half) : raw &&& 0x7FFF = halfWord false (halfExp raw) (halfMant raw) := by
  apply BitVec.eq_of_getLsbD_eq
  intro k hk
  rw [halfWord_getLsbD, BitVec.getLsbD_and]
  simp only [halfExp, halfMant, BitVec.getLsbD_extractLsb']
  interval_cases k <;> simp

theorem and_expMask (raw : Half) : raw &&& 0x7C00 = halfWord false (halfExp raw) 0 := by
  apply BitVec.eq_of_getLsbD_eq
  intro k hk
  rw [halfWord_getLsbD, BitVec.getLsbD_and]
  simp only [halfExp, BitVec.getLsbD_extractLsb']
  interval_cases k <;> simp

theorem rowHits_zero (raw : Half) : rowHits 0x7FFF 0x0000 raw = true ↔ halfExp raw = 0 ∧ halfMant raw = 0 := by
  have h : (0x0000 : Half) = halfWord false 0 0 := by decide
  rw [rowHits, beq_iff_eq, and_magMask, h, halfWord_inj]
  simp

theorem rowHits_subnormal (raw : Half) : rowHits 0x7C00 0x0000 raw = true ↔ halfExp raw = 0 := by
  have h : (0x0000 : Half) = halfWord false 0 0 := by decide
  rw [rowHits, beq_iff_eq, and_expMask, h, halfWord_inj]
  simp

theorem rowHits_inf (raw : Half) : rowHits 0x7FFF 0x7C00 raw = true ↔ halfExp raw = 31 ∧ halfMant raw = 0 := by
  have h : (0x7C00 : Half) = halfWord false 31 0 := by decide
  rw [rowHits, beq_iff_eq, and_magMask, h, halfWord_inj]
  simp

theorem rowHits_nan (raw : Half) : rowHits 0x7C00 0x7C00 raw = true ↔ halfExp raw = 31 := by
  have h : (0x7C00 : Half) = halfWord false 31 0 := by decide
  rw [rowHits, beq_iff_eq, and_expMask, h, halfWord_inj]
  simp

/-- The class rows by fields: the row a word decodes to. -/
theorem decodeHalfRow_eq (raw : Half) :
    decodeHalfRow raw =
      if halfExp raw = 0 ∧ halfMant raw = 0 then .f16Zero (halfSign raw)
      else if halfExp raw = 0 then .f16Subnormal (halfSign raw) (halfMant raw)
      else if halfExp raw = 31 ∧ halfMant raw = 0 then .f16Inf (halfSign raw)
      else if halfExp raw = 31 then .f16Nan (halfSign raw) (halfMant raw)
      else .f16Normal (halfSign raw) (halfExp raw) (halfMant raw) := by
  simp only [decodeHalfRow, rowHits_zero, rowHits_subnormal, rowHits_inf, rowHits_nan]

/-! ## The frame word (R72) -/

theorem frameWord_getLsbD (b : Byte) (k : Nat) :
    (frameWord b).getLsbD k =
      if k < 1 then false else if k - 1 < 8 then b.getLsbD (k - 1) else (1#1).getLsbD (k - 1 - 8) := by
  show BitVec.getLsbD (w := 1 + 8 + 1) (1#1 ++ b ++ 0#1) k = _
  rw [BitVec.getLsbD_append]
  show (if k < 1 then _ else BitVec.getLsbD (w := 1 + 8) (1#1 ++ b) (k - 1)) = _
  rw [BitVec.getLsbD_append]
  simp

theorem frameWord_payload (b : Byte) : framePayload (frameWord b) = b := by
  ext i hi
  rw [framePayload, BitVec.getElem_extractLsb', frameWord_getLsbD]
  simp [hi]

/-- The start slot is at level 0 (R71). -/
theorem Machine.frameBit_start (b : Byte) : Machine.frameBit b 0 = false := by
  rw [Machine.frameBit, frameWord_getLsbD]
  rfl

/-- The stop slot is at level 1 (R71). -/
theorem Machine.frameBit_stop (b : Byte) : Machine.frameBit b 9 = true := by
  rw [Machine.frameBit, frameWord_getLsbD]
  rfl

end Sys2Proof
end

