-- ==== Sys2Proof/Laws/State.lean ====
section
/-! SUPPORT. The fields of the state after each named update of Machine/Flags.lean and Machine/Ops.lean: one lemma per
field per update. -/

namespace Sys2Proof.Machine

/-! `enterMasked`: the save and clear of R112 -/

@[simp] theorem enterMasked_cfg (s : State) : (s.enterMasked).cfg = s.cfg := rfl
@[simp] theorem enterMasked_cyccnt (s : State) : (s.enterMasked).cyccnt = s.cyccnt := rfl
@[simp] theorem enterMasked_txd (s : State) : (s.enterMasked).txd = s.txd := rfl
@[simp] theorem enterMasked_irqen (s : State) : (s.enterMasked).irqen = false := rfl
@[simp] theorem enterMasked_irqsave (s : State) : (s.enterMasked).irqsave = s.irqen := rfl
@[simp] theorem enterMasked_fmtbuf (s : State) : (s.enterMasked).fmtbuf = s.fmtbuf := rfl
@[simp] theorem enterMasked_seq (s : State) : (s.enterMasked).seq = s.seq := rfl
@[simp] theorem enterMasked_rendering (s : State) : (s.enterMasked).rendering = s.rendering := rfl
@[simp] theorem enterMasked_tick (s : State) : (s.enterMasked).tick = s.tick := rfl
@[simp] theorem enterMasked_result (s : State) : (s.enterMasked).result = s.result := rfl
@[simp] theorem enterMasked_inputs (s : State) : (s.enterMasked).inputs = s.inputs := rfl
@[simp] theorem enterMasked_renderTicks (s : State) : (s.enterMasked).renderTicks = s.renderTicks := rfl
@[simp] theorem enterMasked_draws (s : State) : (s.enterMasked).draws = s.draws := rfl

/-! `leaveMasked`: the restore of R117 -/

@[simp] theorem leaveMasked_cfg (s : State) : (s.leaveMasked).cfg = s.cfg := rfl
@[simp] theorem leaveMasked_cyccnt (s : State) : (s.leaveMasked).cyccnt = s.cyccnt := rfl
@[simp] theorem leaveMasked_txd (s : State) : (s.leaveMasked).txd = s.txd := rfl
@[simp] theorem leaveMasked_irqen (s : State) : (s.leaveMasked).irqen = s.irqsave := rfl
@[simp] theorem leaveMasked_irqsave (s : State) : (s.leaveMasked).irqsave = Config.deadIrqSave s.draws := rfl
@[simp] theorem leaveMasked_fmtbuf (s : State) : (s.leaveMasked).fmtbuf = s.fmtbuf := rfl
@[simp] theorem leaveMasked_seq (s : State) : (s.leaveMasked).seq = s.seq := rfl
@[simp] theorem leaveMasked_rendering (s : State) : (s.leaveMasked).rendering = s.rendering := rfl
@[simp] theorem leaveMasked_tick (s : State) : (s.leaveMasked).tick = s.tick := rfl
@[simp] theorem leaveMasked_result (s : State) : (s.leaveMasked).result = s.result := rfl
@[simp] theorem leaveMasked_inputs (s : State) : (s.leaveMasked).inputs = s.inputs := rfl
@[simp] theorem leaveMasked_renderTicks (s : State) : (s.leaveMasked).renderTicks = s.renderTicks := rfl
@[simp] theorem leaveMasked_draws (s : State) : (s.leaveMasked).draws = s.draws + 1 := rfl

/-! `countTick`: one tick (R22) -/

@[simp] theorem countTick_cfg (s : State) : (s.countTick).cfg = s.cfg := rfl
@[simp] theorem countTick_cyccnt (s : State) : (s.countTick).cyccnt = addW s.cfg.cntW s.cyccnt 1 := rfl
@[simp] theorem countTick_txd (s : State) : (s.countTick).txd = s.txd := rfl
@[simp] theorem countTick_irqen (s : State) : (s.countTick).irqen = s.irqen := rfl
@[simp] theorem countTick_irqsave (s : State) : (s.countTick).irqsave = s.irqsave := rfl
@[simp] theorem countTick_fmtbuf (s : State) : (s.countTick).fmtbuf = s.fmtbuf := rfl
@[simp] theorem countTick_seq (s : State) : (s.countTick).seq = s.seq := rfl
@[simp] theorem countTick_rendering (s : State) : (s.countTick).rendering = s.rendering := rfl
@[simp] theorem countTick_tick (s : State) : (s.countTick).tick = s.tick + 1 := rfl
@[simp] theorem countTick_result (s : State) : (s.countTick).result = s.result := rfl
@[simp] theorem countTick_inputs (s : State) : (s.countTick).inputs = s.inputs := rfl
@[simp] theorem countTick_renderTicks (s : State) : (s.countTick).renderTicks = s.renderTicks := rfl
@[simp] theorem countTick_draws (s : State) : (s.countTick).draws = s.draws := rfl

/-! `startWait`: the start of a bare wait (R119) -/

@[simp] theorem startWait_cfg (s : State) (cycles : Nat) : (s.startWait cycles).cfg = s.cfg := rfl
@[simp] theorem startWait_cyccnt (s : State) (cycles : Nat) : (s.startWait cycles).cyccnt = s.cyccnt := rfl
@[simp] theorem startWait_txd (s : State) (cycles : Nat) : (s.startWait cycles).txd = s.txd := rfl
@[simp] theorem startWait_irqen (s : State) (cycles : Nat) : (s.startWait cycles).irqen = s.irqen := rfl
@[simp] theorem startWait_irqsave (s : State) (cycles : Nat) : (s.startWait cycles).irqsave = s.irqsave := rfl
@[simp] theorem startWait_fmtbuf (s : State) (cycles : Nat) : (s.startWait cycles).fmtbuf = s.fmtbuf := rfl
@[simp] theorem startWait_seq (s : State) (cycles : Nat) : (s.startWait cycles).seq = { s.seq with mode := .run, kind := .delay, dstart := s.cyccnt, dlen := cycles } := rfl
@[simp] theorem startWait_rendering (s : State) (cycles : Nat) : (s.startWait cycles).rendering = s.rendering := rfl
@[simp] theorem startWait_tick (s : State) (cycles : Nat) : (s.startWait cycles).tick = s.tick := rfl
@[simp] theorem startWait_result (s : State) (cycles : Nat) : (s.startWait cycles).result = s.result := rfl
@[simp] theorem startWait_inputs (s : State) (cycles : Nat) : (s.startWait cycles).inputs = s.inputs := rfl
@[simp] theorem startWait_renderTicks (s : State) (cycles : Nat) : (s.startWait cycles).renderTicks = s.renderTicks := rfl
@[simp] theorem startWait_draws (s : State) (cycles : Nat) : (s.startWait cycles).draws = s.draws := rfl

/-! `driveSlot`: one slot put on the pin (R105) -/

@[simp] theorem driveSlot_cfg (s : State) (k : Fin 10) : (s.driveSlot k).cfg = s.cfg := rfl
@[simp] theorem driveSlot_cyccnt (s : State) (k : Fin 10) : (s.driveSlot k).cyccnt = s.cyccnt := rfl
@[simp] theorem driveSlot_txd (s : State) (k : Fin 10) : (s.driveSlot k).txd = frameBit s.seq.cur k := rfl
@[simp] theorem driveSlot_irqen (s : State) (k : Fin 10) : (s.driveSlot k).irqen = s.irqen := rfl
@[simp] theorem driveSlot_irqsave (s : State) (k : Fin 10) : (s.driveSlot k).irqsave = s.irqsave := rfl
@[simp] theorem driveSlot_fmtbuf (s : State) (k : Fin 10) : (s.driveSlot k).fmtbuf = s.fmtbuf := rfl
@[simp] theorem driveSlot_seq (s : State) (k : Fin 10) : (s.driveSlot k).seq = { s.seq with slot := k, dstart := s.cyccnt } := rfl
@[simp] theorem driveSlot_rendering (s : State) (k : Fin 10) : (s.driveSlot k).rendering = s.rendering := rfl
@[simp] theorem driveSlot_tick (s : State) (k : Fin 10) : (s.driveSlot k).tick = s.tick := rfl
@[simp] theorem driveSlot_result (s : State) (k : Fin 10) : (s.driveSlot k).result = s.result := rfl
@[simp] theorem driveSlot_inputs (s : State) (k : Fin 10) : (s.driveSlot k).inputs = s.inputs := rfl
@[simp] theorem driveSlot_renderTicks (s : State) (k : Fin 10) : (s.driveSlot k).renderTicks = s.renderTicks := rfl
@[simp] theorem driveSlot_draws (s : State) (k : Fin 10) : (s.driveSlot k).draws = s.draws := rfl

/-! `endRun`: the end of an operation (R34, R57) -/

@[simp] theorem endRun_cfg (s : State) : (s.endRun).cfg = s.cfg := rfl
@[simp] theorem endRun_cyccnt (s : State) : (s.endRun).cyccnt = s.cyccnt := rfl
@[simp] theorem endRun_txd (s : State) : (s.endRun).txd = s.txd := rfl
@[simp] theorem endRun_irqen (s : State) : (s.endRun).irqen = s.irqen := rfl
@[simp] theorem endRun_irqsave (s : State) : (s.endRun).irqsave = s.irqsave := rfl
@[simp] theorem endRun_fmtbuf (s : State) : (s.endRun).fmtbuf = s.fmtbuf := rfl
@[simp] theorem endRun_rendering (s : State) : (s.endRun).rendering = s.rendering := rfl
@[simp] theorem endRun_tick (s : State) : (s.endRun).tick = s.tick := rfl
@[simp] theorem endRun_result (s : State) : (s.endRun).result = s.result := rfl
@[simp] theorem endRun_inputs (s : State) : (s.endRun).inputs = s.inputs := rfl
@[simp] theorem endRun_renderTicks (s : State) : (s.endRun).renderTicks = s.renderTicks := rfl
@[simp] theorem endRun_draws (s : State) : (s.endRun).draws = s.draws + 1 := rfl

/-! `releaseBuf`: the end of the buffer's life (R27) -/

@[simp] theorem releaseBuf_cfg (s : State) : (s.releaseBuf).cfg = s.cfg := rfl
@[simp] theorem releaseBuf_cyccnt (s : State) : (s.releaseBuf).cyccnt = s.cyccnt := rfl
@[simp] theorem releaseBuf_txd (s : State) : (s.releaseBuf).txd = s.txd := rfl
@[simp] theorem releaseBuf_irqen (s : State) : (s.releaseBuf).irqen = s.irqen := rfl
@[simp] theorem releaseBuf_irqsave (s : State) : (s.releaseBuf).irqsave = s.irqsave := rfl
@[simp] theorem releaseBuf_fmtbuf (s : State) : (s.releaseBuf).fmtbuf = Config.deadBuf s.draws := rfl
@[simp] theorem releaseBuf_seq (s : State) : (s.releaseBuf).seq = s.seq := rfl
@[simp] theorem releaseBuf_rendering (s : State) : (s.releaseBuf).rendering = s.rendering := rfl
@[simp] theorem releaseBuf_tick (s : State) : (s.releaseBuf).tick = s.tick := rfl
@[simp] theorem releaseBuf_result (s : State) : (s.releaseBuf).result = s.result := rfl
@[simp] theorem releaseBuf_inputs (s : State) : (s.releaseBuf).inputs = s.inputs := rfl
@[simp] theorem releaseBuf_renderTicks (s : State) : (s.releaseBuf).renderTicks = s.renderTicks := rfl
@[simp] theorem releaseBuf_draws (s : State) : (s.releaseBuf).draws = s.draws + 1 := rfl

/-! `takeRenderTicks`: the draw of a rendering time -/

@[simp] theorem takeRenderTicks_cfg (s : State) : (s.takeRenderTicks).cfg = s.cfg := rfl
@[simp] theorem takeRenderTicks_cyccnt (s : State) : (s.takeRenderTicks).cyccnt = s.cyccnt := rfl
@[simp] theorem takeRenderTicks_txd (s : State) : (s.takeRenderTicks).txd = s.txd := rfl
@[simp] theorem takeRenderTicks_irqen (s : State) : (s.takeRenderTicks).irqen = s.irqen := rfl
@[simp] theorem takeRenderTicks_irqsave (s : State) : (s.takeRenderTicks).irqsave = s.irqsave := rfl
@[simp] theorem takeRenderTicks_fmtbuf (s : State) : (s.takeRenderTicks).fmtbuf = s.fmtbuf := rfl
@[simp] theorem takeRenderTicks_seq (s : State) : (s.takeRenderTicks).seq = s.seq := rfl
@[simp] theorem takeRenderTicks_rendering (s : State) : (s.takeRenderTicks).rendering = s.rendering := rfl
@[simp] theorem takeRenderTicks_tick (s : State) : (s.takeRenderTicks).tick = s.tick := rfl
@[simp] theorem takeRenderTicks_result (s : State) : (s.takeRenderTicks).result = s.result := rfl
@[simp] theorem takeRenderTicks_inputs (s : State) : (s.takeRenderTicks).inputs = s.inputs := rfl
@[simp] theorem takeRenderTicks_renderTicks (s : State) : (s.takeRenderTicks).renderTicks = s.renderTicks.tail := rfl
@[simp] theorem takeRenderTicks_draws (s : State) : (s.takeRenderTicks).draws = s.draws := rfl

/-! `deliver`: handing over a result (R94) -/

@[simp] theorem deliver_cfg (s : State) (r : Result) : (s.deliver r).cfg = s.cfg := rfl
@[simp] theorem deliver_cyccnt (s : State) (r : Result) : (s.deliver r).cyccnt = s.cyccnt := rfl
@[simp] theorem deliver_txd (s : State) (r : Result) : (s.deliver r).txd = s.txd := rfl
@[simp] theorem deliver_irqen (s : State) (r : Result) : (s.deliver r).irqen = s.irqen := rfl
@[simp] theorem deliver_irqsave (s : State) (r : Result) : (s.deliver r).irqsave = s.irqsave := rfl
@[simp] theorem deliver_fmtbuf (s : State) (r : Result) : (s.deliver r).fmtbuf = s.fmtbuf := rfl
@[simp] theorem deliver_seq (s : State) (r : Result) : (s.deliver r).seq = s.seq := rfl
@[simp] theorem deliver_rendering (s : State) (r : Result) : (s.deliver r).rendering = s.rendering := rfl
@[simp] theorem deliver_tick (s : State) (r : Result) : (s.deliver r).tick = s.tick := rfl
@[simp] theorem deliver_result (s : State) (r : Result) : (s.deliver r).result = some r := rfl
@[simp] theorem deliver_inputs (s : State) (r : Result) : (s.deliver r).inputs = s.inputs := rfl
@[simp] theorem deliver_renderTicks (s : State) (r : Result) : (s.deliver r).renderTicks = s.renderTicks := rfl
@[simp] theorem deliver_draws (s : State) (r : Result) : (s.deliver r).draws = s.draws := rfl

@[simp] theorem endRun_mode (s : State) : s.endRun.seq.mode = .idle := rfl

/-! `openRun`: SENDRAW runs (R119) -/

@[simp] theorem openRun_cfg (s : State) (kind : Kind) (rest : List Byte) : (s.openRun kind rest).cfg = s.cfg := rfl
@[simp] theorem openRun_cyccnt (s : State) (kind : Kind) (rest : List Byte) : (s.openRun kind rest).cyccnt = s.cyccnt := rfl
@[simp] theorem openRun_txd (s : State) (kind : Kind) (rest : List Byte) : (s.openRun kind rest).txd = s.txd := rfl
@[simp] theorem openRun_irqen (s : State) (kind : Kind) (rest : List Byte) : (s.openRun kind rest).irqen = s.irqen := rfl
@[simp] theorem openRun_irqsave (s : State) (kind : Kind) (rest : List Byte) : (s.openRun kind rest).irqsave = s.irqsave := rfl
@[simp] theorem openRun_fmtbuf (s : State) (kind : Kind) (rest : List Byte) : (s.openRun kind rest).fmtbuf = s.fmtbuf := rfl
@[simp] theorem openRun_seq (s : State) (kind : Kind) (rest : List Byte) : (s.openRun kind rest).seq = { s.seq with mode := .run, kind := kind, rest := rest, dlen := s.cfg.bitPeriod } := rfl
@[simp] theorem openRun_rendering (s : State) (kind : Kind) (rest : List Byte) : (s.openRun kind rest).rendering = s.rendering := rfl
@[simp] theorem openRun_tick (s : State) (kind : Kind) (rest : List Byte) : (s.openRun kind rest).tick = s.tick := rfl
@[simp] theorem openRun_result (s : State) (kind : Kind) (rest : List Byte) : (s.openRun kind rest).result = s.result := rfl
@[simp] theorem openRun_inputs (s : State) (kind : Kind) (rest : List Byte) : (s.openRun kind rest).inputs = s.inputs := rfl
@[simp] theorem openRun_renderTicks (s : State) (kind : Kind) (rest : List Byte) : (s.openRun kind rest).renderTicks = s.renderTicks := rfl
@[simp] theorem openRun_draws (s : State) (kind : Kind) (rest : List Byte) : (s.openRun kind rest).draws = s.draws := rfl

/-! `setRest`: what SENDRAW still has to send -/

@[simp] theorem setRest_cfg (s : State) (rest : List Byte) : (s.setRest rest).cfg = s.cfg := rfl
@[simp] theorem setRest_cyccnt (s : State) (rest : List Byte) : (s.setRest rest).cyccnt = s.cyccnt := rfl
@[simp] theorem setRest_txd (s : State) (rest : List Byte) : (s.setRest rest).txd = s.txd := rfl
@[simp] theorem setRest_irqen (s : State) (rest : List Byte) : (s.setRest rest).irqen = s.irqen := rfl
@[simp] theorem setRest_irqsave (s : State) (rest : List Byte) : (s.setRest rest).irqsave = s.irqsave := rfl
@[simp] theorem setRest_fmtbuf (s : State) (rest : List Byte) : (s.setRest rest).fmtbuf = s.fmtbuf := rfl
@[simp] theorem setRest_seq (s : State) (rest : List Byte) : (s.setRest rest).seq = { s.seq with rest := rest } := rfl
@[simp] theorem setRest_rendering (s : State) (rest : List Byte) : (s.setRest rest).rendering = s.rendering := rfl
@[simp] theorem setRest_tick (s : State) (rest : List Byte) : (s.setRest rest).tick = s.tick := rfl
@[simp] theorem setRest_result (s : State) (rest : List Byte) : (s.setRest rest).result = s.result := rfl
@[simp] theorem setRest_inputs (s : State) (rest : List Byte) : (s.setRest rest).inputs = s.inputs := rfl
@[simp] theorem setRest_renderTicks (s : State) (rest : List Byte) : (s.setRest rest).renderTicks = s.renderTicks := rfl
@[simp] theorem setRest_draws (s : State) (rest : List Byte) : (s.setRest rest).draws = s.draws := rfl

/-! `sendByte`: the invocation of SENDBYTE (R105) -/

@[simp] theorem sendByte_cfg (s : State) (b : Byte) : (s.sendByte b).cfg = s.cfg := rfl
@[simp] theorem sendByte_cyccnt (s : State) (b : Byte) : (s.sendByte b).cyccnt = s.cyccnt := rfl
@[simp] theorem sendByte_txd (s : State) (b : Byte) : (s.sendByte b).txd = frameBit b 0 := rfl
@[simp] theorem sendByte_irqen (s : State) (b : Byte) : (s.sendByte b).irqen = s.irqen := rfl
@[simp] theorem sendByte_irqsave (s : State) (b : Byte) : (s.sendByte b).irqsave = s.irqsave := rfl
@[simp] theorem sendByte_fmtbuf (s : State) (b : Byte) : (s.sendByte b).fmtbuf = s.fmtbuf := rfl
@[simp] theorem sendByte_seq (s : State) (b : Byte) : (s.sendByte b).seq = { s.seq with cur := b, slot := 0, dstart := s.cyccnt } := rfl
@[simp] theorem sendByte_rendering (s : State) (b : Byte) : (s.sendByte b).rendering = s.rendering := rfl
@[simp] theorem sendByte_tick (s : State) (b : Byte) : (s.sendByte b).tick = s.tick := rfl
@[simp] theorem sendByte_result (s : State) (b : Byte) : (s.sendByte b).result = s.result := rfl
@[simp] theorem sendByte_inputs (s : State) (b : Byte) : (s.sendByte b).inputs = s.inputs := rfl
@[simp] theorem sendByte_renderTicks (s : State) (b : Byte) : (s.sendByte b).renderTicks = s.renderTicks := rfl
@[simp] theorem sendByte_draws (s : State) (b : Byte) : (s.sendByte b).draws = s.draws := rfl

/-- All that SENDBYTE's invocation does. -/
theorem sendByte_eq (b : Byte) (s : State) :
    s.sendByte b = { s with txd := false, seq := { s.seq with cur := b, slot := 0, dstart := s.cyccnt } } := by
  have h : frameBit b 0 = false := frameBit_start b
  simp [State.sendByte, State.driveSlot, h]

end Sys2Proof.Machine
end

