-- ==== Sys2Proof/Laws/Ops.lean ====
section
/-! SUPPORT. One lemma for each shared operation that says what it does: the wrapping arithmetic, the
buffer, the entry and the exit of SENDRAW. -/

namespace Sys2Proof.Machine

/-! ## Wrapping arithmetic (R12, R101) -/

theorem addW_lt (w a b : Nat) : addW w a b < 2 ^ w := Nat.mod_lt _ (Nat.two_pow_pos w)

theorem subW_lt (w a b : Nat) : subW w a b < 2 ^ w := by
  have h : 0 < ((2 ^ w : Nat) : Int) := by exact_mod_cast Nat.two_pow_pos w
  have h1 := Int.emod_nonneg ((a : Int) - b) (ne_of_gt h)
  have h2 := Int.emod_lt_of_pos ((a : Int) - b) h
  unfold subW
  omega

@[simp] theorem subW_self (w a : Nat) : subW w a a = 0 := by simp [subW]

/-- One more tick on the counter is one more on the elapsed count, short of a lap. -/
theorem subW_addW_one (w a b : Nat) (h : subW w a b + 1 < 2 ^ w) :
    subW w (addW w a 1) b = subW w a b + 1 := by
  have hM : 0 < ((2 ^ w : Nat) : Int) := by exact_mod_cast Nat.two_pow_pos w
  have h1 := Int.emod_nonneg ((a : Int) - b) (ne_of_gt hM)
  have key : (((addW w a 1 : Nat) : Int) - b) % ((2 ^ w : Nat) : Int)
      = (((a : Int) - b) % ((2 ^ w : Nat) : Int) + 1) % ((2 ^ w : Nat) : Int) := by
    simp only [addW, Int.natCast_emod, Nat.cast_add, Nat.cast_one]
    rw [Int.emod_sub_emod, Int.emod_add_emod]
    congr 1
    ring
  unfold subW at h ⊢
  rw [key, Int.emod_eq_of_lt] <;> omega

/-! ## The formatting buffer (R14, R27) -/

/-- Read after write. -/
theorem memRead_memWrite (buf : FmtBuf) (i : Nat) (v : Byte) (j : Fin fmtSize) :
    memRead (memWrite buf i v) j = if i = j.val then v else memRead buf j := by
  simp [memRead, memWrite, Vector.getElem_setIfInBounds]

/-! ## The exit and the entry of an operation -/

/-- What the exit of an operation can change: the mask and its save, the buffer, the count of draws. -/
theorem release_spec (kind : Kind) (s : State) :
    (s.release kind).cfg = s.cfg ∧ (s.release kind).cyccnt = s.cyccnt ∧ (s.release kind).txd = s.txd ∧
      (s.release kind).seq = s.seq ∧ (s.release kind).rendering = s.rendering ∧
      (s.release kind).tick = s.tick ∧ (s.release kind).result = s.result ∧
      (s.release kind).inputs = s.inputs ∧ (s.release kind).renderTicks = s.renderTicks := by
  cases kind <;> simp [State.release]

/-- The mask after the exit: restored by SENDRAW, kept by DELAY (R117). -/
theorem release_irqen (kind : Kind) (s : State) :
    (s.release kind).irqen = if kind ≠ .delay then s.irqsave else s.irqen := by
  cases kind <;> simp [State.release]

/-- Only the end of a SENDFMT releases the buffer (R27). -/
theorem release_fmtbuf (kind : Kind) (s : State) (h : kind ≠ .sendFmt) :
    (s.release kind).fmtbuf = s.fmtbuf := by
  cases kind <;> simp_all [State.release]

/-- The entry of SENDRAW on a message that is not empty (R112, R119). -/
theorem beginSend_cons (kind : Kind) (b : Byte) (rest : List Byte) (s : State) :
    s.beginSend kind (b :: rest) =
      { s with
        irqsave := s.irqen
        irqen := false
        txd := false
        seq := ⟨.run, kind, rest, b, 0, s.cyccnt, s.cfg.bitPeriod⟩ } := by
  simp [State.beginSend, State.enterMasked, State.openRun, sendByte_eq]

/-- The empty message is the entry and the exit at one instant (R114). -/
theorem beginSend_nil (kind : Kind) (s : State) :
    s.beginSend kind [] = s.enterMasked.release kind := rfl

/-- What no entry of SENDRAW changes. -/
theorem beginSend_spec (kind : Kind) (bytes : List Byte) (s : State) :
    (s.beginSend kind bytes).cfg = s.cfg ∧ (s.beginSend kind bytes).cyccnt = s.cyccnt ∧
      (s.beginSend kind bytes).rendering = s.rendering ∧ (s.beginSend kind bytes).tick = s.tick ∧
      (s.beginSend kind bytes).result = s.result ∧ (s.beginSend kind bytes).inputs = s.inputs ∧
      (s.beginSend kind bytes).renderTicks = s.renderTicks := by
  cases bytes with
  | nil => cases kind <;> simp [State.beginSend, State.release]
  | cons b rest => simp [beginSend_cons]

/-- What neither the write step of SENDFMT nor the entry of its SENDRAW step changes. -/
theorem sendText_spec (text : List Byte) (s : State) :
    (s.sendText text).cfg = s.cfg ∧ (s.sendText text).cyccnt = s.cyccnt ∧
      (s.sendText text).rendering = none ∧ (s.sendText text).tick = s.tick ∧
      (s.sendText text).result = s.result ∧ (s.sendText text).inputs = s.inputs ∧
      (s.sendText text).renderTicks = s.renderTicks := by
  have h := beginSend_spec .sendFmt (cstr (fillBuf text s.fmtbuf))
    { s with rendering := none, fmtbuf := fillBuf text s.fmtbuf }
  simpa [State.sendText] using h

/-- Everything the start of a rendering can do: the text is sent at once, or rendering goes on. -/
theorem beginRender_cases (text : List Byte) (n : Nat) (s : State) :
    (n = 0 ∧ s.beginRender text n = s.sendText text) ∨
      (n ≠ 0 ∧ s.beginRender text n = { s with rendering := some ⟨text, n⟩ }) := by
  by_cases h : n = 0 <;> simp [State.beginRender, h]

/-- `BUSY = 0` says both that no operation runs and that nothing is rendering (R29). -/
theorem busy_eq_false (s : State) : s.busy = false ↔ s.seq.mode = .idle ∧ s.rendering = none := by
  cases h : s.seq.mode <;> simp [State.busy, h]

end Sys2Proof.Machine
end

