-- ==== Sys2Proof/Laws/PerInstr.lean ====
section
/-! SUPPORT. Statements made per instruction.  `RoundTrip`: what the encoder writes for a well-formed
instruction, the decoder reads back, with every operand at every value. -/

namespace Sys2Proof.Laws.RoundTrip

def Statement (i : Instr) : Prop :=
  ∀ cfg : Params, i.wf cfg = true → decodeRequest (encode i) = .ok i

theorem delay (c : Nat) : Statement (.delay c) := fun _ _ => rfl
theorem sendRaw (bytes : List Byte) : Statement (.sendRaw bytes) := fun _ _ => rfl
theorem sendFmt (format : Template) (args : List Arg) : Statement (.sendFmt format args) := fun _ _ => rfl
theorem decode (raw : Half) : Statement (.decode raw) := fun _ _ => rfl
theorem reconstruct (rs : List Reading) : Statement (.reconstruct rs) := fun _ _ => rfl
theorem reserved5 : Statement .reserved5 := fun _ _ => rfl
theorem reserved6 : Statement .reserved6 := fun _ _ => rfl
theorem reserved7 : Statement .reserved7 := fun _ _ => rfl

/-- What the decoder reads from a word given by its fields. -/
theorem decode_halfWord (s : Bit) (e : BitVec 5) (m : BitVec 10) :
    decodeRequest (.half (halfWord s e m)) =
      .ok (if e = 0 ∧ m = 0 then .f16Zero s
        else if e = 0 then .f16Subnormal s m
        else if e = 31 ∧ m = 0 then .f16Inf s
        else if e = 31 then .f16Nan s m
        else .f16Normal s e m) := by
  simp only [decodeRequest, decodeHalfRow_eq, halfSign_halfWord, halfExp_halfWord, halfMant_halfWord]

theorem f16Zero (s : Bit) : Statement (.f16Zero s) := by
  intro _ _
  simp [encode, decode_halfWord]

theorem f16Subnormal (s : Bit) (m : BitVec 10) : Statement (.f16Subnormal s m) := by
  intro _ h
  have hm : m ≠ 0 := by simpa [Instr.wf] using h
  simp only [encode, decode_halfWord, hm, and_false, if_false, if_true]

theorem f16Inf (s : Bit) : Statement (.f16Inf s) := by
  intro _ _
  simp [encode, decode_halfWord]

theorem f16Nan (s : Bit) (m : BitVec 10) : Statement (.f16Nan s m) := by
  intro _ h
  have hm : m ≠ 0 := by simpa [Instr.wf] using h
  have h31 : (31 : BitVec 5) ≠ 0 := by decide
  simp only [encode, decode_halfWord, hm, h31, and_false, if_false, if_true]

theorem f16Normal (s : Bit) (e : BitVec 5) (m : BitVec 10) : Statement (.f16Normal s e m) := by
  intro _ h
  have he : 1 ≤ e.toNat ∧ e.toNat ≤ 30 := by simpa [Instr.wf] using h
  have h0 : e ≠ 0 := by rintro rfl; simp at he
  have h31 : e ≠ 31 := by rintro rfl; simp at he
  simp only [encode, decode_halfWord, h0, h31, false_and, if_false]

theorem frame (b : Byte) : Statement (.frame b) := by
  intro _ _
  have h0 : (frameWord b).getLsbD 0 = false := Machine.frameBit_start b
  have h9 : (frameWord b).getLsbD 9 = true := Machine.frameBit_stop b
  simp only [encode, decodeRequest, decodeFrame, h0, h9, frameWord_payload]
  rfl

end Sys2Proof.Laws.RoundTrip
end

