-- ==== Sys2Proof/Laws/Step.lean ====
section
/-! SUPPORT. What an instant of unit TX, a tick and a step can do, each said once. -/

namespace Sys2Proof.Machine

/-- Everything the body of R119's loop can do. -/
theorem advance_cases (s : State) :
    (s.seq.kind = .delay ∧ s.advance = s.endRun) ∨
      (s.seq.kind ≠ .delay ∧ s.seq.slot.val < 9 ∧ s.advance = s.driveSlot (s.seq.slot + 1)) ∨
      (s.seq.kind ≠ .delay ∧ ¬ s.seq.slot.val < 9 ∧
        ∃ b rest, s.seq.rest = b :: rest ∧ s.advance = (s.setRest rest).sendByte b) ∨
      (s.seq.kind ≠ .delay ∧ ¬ s.seq.slot.val < 9 ∧ s.seq.rest = [] ∧
        s.advance = (s.release s.seq.kind).endRun) := by
  unfold State.advance
  split
  · exact .inl ⟨‹_›, rfl⟩
  · split
    · exact .inr (.inl ⟨‹_›, ‹_›, rfl⟩)
    · split
      · next b rest h => exact .inr (.inr (.inl ⟨‹_›, ‹_›, b, rest, h, rfl⟩))
      · next h => exact .inr (.inr (.inr ⟨‹_›, ‹_›, h, rfl⟩))

/-- Everything unit TX can do at an instant of its own. -/
theorem act_cases (s : State) :
    (∃ r, s.rendering = some r ∧ r.left ≤ 1 ∧ s.act = s.sendText r.text) ∨
      (∃ r, s.rendering = some r ∧ 1 < r.left ∧
        s.act = { s with rendering := some ⟨r.text, r.left - 1⟩ }) ∨
      (s.rendering = none ∧ s.seq.mode = .run ∧ s.seq.dlen ≤ s.elapsed ∧ s.act = s.advance) ∨
      (s.rendering = none ∧ (s.seq.mode = .run → s.elapsed < s.seq.dlen) ∧ s.act = s) := by
  unfold State.act
  split
  · next r h =>
    split
    · exact .inl ⟨r, h, ‹_›, rfl⟩
    · exact .inr (.inl ⟨r, h, by omega, rfl⟩)
  · next h =>
    split
    · next hr => exact .inr (.inr (.inl ⟨h, hr.1, hr.2, rfl⟩))
    · next hr => exact .inr (.inr (.inr ⟨h, fun hm => Nat.lt_of_not_le fun hl => hr ⟨hm, hl⟩, rfl⟩))

/-- Everything a tick can do, when it is not refused: the counter ticks, and unit TX acts unless its tick is
taken, which takes a set `IRQEN` or an idle unit TX. -/
theorem passTick_cases {p : Preempt} {s t : State} (h : passTick p s = .next t) :
    (t = s.countTick.act ∧ (p = .none ∨ p = .maskable ∧ s.irqen = false)) ∨
      (t = s.countTick ∧ (s.irqen = true ∨ s.busy = false) ∧ p ≠ .none) := by
  cases p with
  | none => simp only [passTick, Host.Outcome.next.injEq] at h; exact .inl ⟨h.symm, .inl rfl⟩
  | maskable =>
    simp only [passTick, Host.Outcome.next.injEq] at h
    cases hq : s.irqen
    · simp only [hq] at h; exact .inl ⟨by simpa using h.symm, .inr ⟨rfl, rfl⟩⟩
    · simp only [hq] at h; exact .inr ⟨by simpa using h.symm, .inl rfl, by simp⟩
  | unmaskable =>
    simp only [passTick] at h
    split at h
    · simp at h
    · next hb =>
      simp only [Host.Outcome.next.injEq] at h
      refine .inr ⟨h.symm, ?_, by simp⟩
      cases hq : s.irqen <;> simp_all

/-- A fetched instruction is the decoded one, well formed, and one that can be requested. -/
theorem fetchRequest_ok {cfg : Params} {r : Request} {i : Instr} :
    fetchRequest cfg r = .ok i ↔ decodeRequest r = .ok i ∧ i.wf cfg = true ∧ requestable i = true := by
  unfold fetchRequest
  cases hd : decodeRequest r with
  | error e => simp
  | ok j =>
    by_cases hq : requestable j = true <;> by_cases hw : j.wf cfg = true <;> simp [hq, hw] <;> rintro rfl <;>
      simp_all

/-- Everything a step can do, when it answers a next state. -/
theorem step_cases {s t : State} (h : step s = .next t) :
    (s.inputs = [] ∧ passTick .none s = .next t) ∨
      (∃ p rest, s.inputs = .tick p :: rest ∧ passTick p { s with inputs := rest } = .next t) ∨
      (∃ r rest i, s.inputs = .request r :: rest ∧ fetchRequest s.cfg r = .ok i ∧
        exec i { s with inputs := rest } = .next t) ∨
      (∃ v rest, s.inputs = .irqWrite v :: rest ∧ s.busy = false ∧
        t = { s with inputs := rest, irqen := v }) ∨
      (∃ v rest, s.inputs = .pinWrite v :: rest ∧ s.busy = false ∧
        t = { s with inputs := rest, txd := v }) ∨
      (∃ v rest, s.inputs = .counterWrite v :: rest ∧ s.busy = false ∧
        t = { s with inputs := rest, cyccnt := v % 2 ^ s.cfg.cntW }) ∨
      (∃ rest, s.inputs = .messageWrite :: rest ∧ s.busy = false ∧ t = { s with inputs := rest }) := by
  have hbusy : ∀ rest, State.busy { s with inputs := rest } = s.busy := fun _ => rfl
  unfold step at h
  split at h
  · exact .inl ⟨‹_›, h⟩
  · exact .inr (.inl ⟨_, _, ‹_›, h⟩)
  · split at h
    · exact .inr (.inr (.inl ⟨_, _, _, ‹_›, ‹_›, h⟩))
    · simp at h
  all_goals
    simp only [writeIrqen, writePin, writeCounter, writeMessage, hbusy] at h
    cases hb : s.busy <;> simp [hb] at h
    simp_all

end Sys2Proof.Machine
end

