-- ==== Sys2Proof/Laws/Run.lean ====
section
/-! SUPPORT. Runs: how they compose, what a step is while nothing but ticks arrive, and how a slot is held
until its wait is over. -/

namespace Sys2Proof.Machine

/-- A run of `j + k` steps is a run of `j` and then one of `k`. -/
theorem steps_add (j k : Nat) (s t : State) (h : steps j s = .next t) : steps (j + k) s = steps k t := by
  induction j generalizing s with
  | zero => cases h; simp
  | succ j ih =>
    rw [show j + 1 + k = (j + k) + 1 by omega]
    simp only [steps] at h ⊢
    split at h
    · next u hu => simpa [hu] using ih u h
    · cases h
    · cases h

/-- The state with its first input gone. -/
def State.dropInput (s : State) : State := { s with inputs := s.inputs.tail }

theorem quiet_dropInput {s : State} (h : s.quiet) : s.dropInput.quiet := fun i hi =>
  h i (List.mem_of_mem_tail hi)

theorem unpreempted_dropInput {s : State} (h : s.unpreempted) : s.dropInput.unpreempted := fun i hi =>
  h i (List.mem_of_mem_tail hi)

/-- While unit TX is undisturbed a step is a tick of its own. -/
theorem step_of_undisturbed {s : State} (h : s.undisturbed) : step s = .next s.dropInput.countTick.act := by
  cases hi : s.inputs with
  | nil =>
    have hd : s.dropInput = s := by cases s; simp_all [State.dropInput]
    rw [hd, step, hi]
    rfl
  | cons i rest =>
    have hd : s.dropInput = { s with inputs := rest } := by simp [State.dropInput, hi]
    have hm : i ∈ s.inputs := by simp [hi]
    rw [hd, step, hi]
    rcases h with h | ⟨h, hq⟩
    · rw [h i hm]
      rfl
    · rcases h i hm with rfl | rfl
      · rfl
      · simp [passTick, hq]

/-- An operation that runs and is not at the end of its wait lets the tick pass. -/
theorem act_waiting {s : State} (hr : s.rendering = none) (h : s.seq.mode = .run → s.elapsed < s.seq.dlen) :
    s.act = s := by
  rcases act_cases s with ⟨r, hr', _⟩ | ⟨r, hr', _⟩ | ⟨_, hm, hd, _⟩ | ⟨_, _, h'⟩
  · simp_all
  · simp_all
  · have := h hm
    omega
  · exact h'

/-- At the end of its wait it does the next thing. -/
theorem act_due {s : State} (hr : s.rendering = none) (hm : s.seq.mode = .run) (hd : s.seq.dlen ≤ s.elapsed) :
    s.act = s.advance := by
  simp [State.act, hr, hm, hd]

/-- After `k` ticks in which unit TX does nothing. -/
def State.waited (k : Nat) (s : State) : State :=
  { s with
    cyccnt := (s.cyccnt + k) % 2 ^ s.cfg.cntW
    tick := s.tick + k
    inputs := s.inputs.drop k }

theorem undisturbed_waited {s : State} (k : Nat) (h : s.undisturbed) : (s.waited k).undisturbed :=
  h.imp (fun h i hi => h i (List.mem_of_mem_drop hi)) fun ⟨h, hq⟩ =>
    ⟨fun i hi => h i (List.mem_of_mem_drop hi), hq⟩

/-- The elapsed count grows with the ticks, short of a lap (R101). -/
theorem elapsed_waited {s : State} (k : Nat) (h : s.elapsed + k < 2 ^ s.cfg.cntW) :
    (s.waited k).elapsed = s.elapsed + k := by
  have hM : 0 < ((2 ^ s.cfg.cntW : Nat) : Int) := by exact_mod_cast Nat.two_pow_pos s.cfg.cntW
  have h1 := Int.emod_nonneg ((s.cyccnt : Int) - s.seq.dstart) (ne_of_gt hM)
  have key : ((((s.cyccnt + k) % 2 ^ s.cfg.cntW : Nat) : Int) - s.seq.dstart) % ((2 ^ s.cfg.cntW : Nat) : Int)
      = (((s.cyccnt : Int) - s.seq.dstart) % ((2 ^ s.cfg.cntW : Nat) : Int) + k) %
        ((2 ^ s.cfg.cntW : Nat) : Int) := by
    rw [Int.natCast_emod, Int.emod_sub_emod, Int.emod_add_emod]
    congr 1
    push_cast
    ring
  simp only [State.elapsed, State.waited, subW] at h ⊢
  rw [key, Int.emod_eq_of_lt] <;> omega

theorem waited_zero {s : State} (hc : s.cyccnt < 2 ^ s.cfg.cntW) : s.waited 0 = s := by
  simp [State.waited, Nat.mod_eq_of_lt hc]

theorem waited_succ (s : State) (k : Nat) : (s.waited k).dropInput.countTick = s.waited (k + 1) := by
  simp only [State.waited, State.dropInput, State.countTick, addW, List.tail_drop, Nat.add_assoc,
    Nat.mod_add_mod]

/-- A wait that is not over after `k` undisturbed ticks: only time has passed (R100). -/
theorem steps_waiting {s : State} (k : Nat) (hu : s.undisturbed) (hc : s.cyccnt < 2 ^ s.cfg.cntW)
    (hr : s.rendering = none) (hk : s.seq.mode = .run → s.elapsed + k < s.seq.dlen)
    (hl : s.seq.mode = .run → s.seq.dlen < 2 ^ s.cfg.cntW) :
    steps k s = .next (s.waited k) := by
  induction k with
  | zero => simp [steps, waited_zero hc]
  | succ k ih =>
    rw [steps_add k 1 s _ (ih fun hm => by have := hk hm; omega)]
    simp only [steps, step_of_undisturbed (undisturbed_waited k hu), waited_succ]
    rw [act_waiting (s := s.waited (k + 1)) hr]
    intro hm
    have h1 := hk hm
    have h2 := hl hm
    rw [elapsed_waited (k + 1) (by omega)]
    exact h1

/-- A wait of `dlen` ticks that began at this instant ends after exactly that many (R100, R102). -/
theorem steps_wait_over {s : State} (hu : s.undisturbed) (hc : s.cyccnt < 2 ^ s.cfg.cntW)
    (hr : s.rendering = none) (hm : s.seq.mode = .run) (he : s.elapsed = 0) (hp : 1 ≤ s.seq.dlen)
    (hl : s.seq.dlen < 2 ^ s.cfg.cntW) :
    steps s.seq.dlen s = .next (s.waited s.seq.dlen).advance := by
  obtain ⟨k, hk⟩ : ∃ k, s.seq.dlen = k + 1 := ⟨s.seq.dlen - 1, by omega⟩
  rw [hk, steps_add k 1 s _ (steps_waiting k hu hc hr (fun _ => by omega) fun _ => hl)]
  simp only [steps, step_of_undisturbed (undisturbed_waited k hu), waited_succ]
  rw [act_due (s := s.waited (k + 1)) hr hm]
  rw [elapsed_waited (k + 1) (by omega)]
  simp only [State.waited]
  omega

end Sys2Proof.Machine
end

