-- ==== Sys2Proof/Tests/Slice0.lean ====
section
/-! SUPPORT. Tests: the refusals of WellFormed, the decoding of words written out from the encodings, vectors
of spec/95_test_vectors.md (named in each test), and for every obligation with hypotheses a witness that
meets them. -/

namespace Sys2Proof.Tests

open Sys2Proof.Machine

/-! ## Helpers -/

/-- `CNT_W = 8`, `P = 3`: the parameters of program P2. -/
def p8 : Params :=
  { defaultParams with
    cntW := 8
    bitPeriod := 3
    cntW_pos := by decide
    bitPeriod_pos := by decide
    bitPeriod_lt := by decide }

/-- `CNT_W = 32`, `P = 4`: the parameters of program P1. -/
def p32 : Params :=
  { defaultParams with bitPeriod := 4, bitPeriod_pos := by decide, bitPeriod_lt := by decide }

/-- The start state of P2: `CYCCNT = 250`, `TXD = 1`, `IRQEN = 1`, idle. -/
def idle8 : State := { State.reset with cfg := p8, cyccnt := 250, irqen := true }

/-- `idle8` with inputs to come. -/
def idle8With (inputs : List Input) : State := { idle8 with inputs := inputs }

/-- A slot of the frame of `0x55` in a SENDRAW on the pin, one tick into its wait. -/
def sending8 : State :=
  { idle8 with
    cyccnt := 251
    txd := true
    irqen := false
    irqsave := true
    seq := ⟨.run, .sendRaw, [0x41], 0x55, 1, 250, 3⟩ }

/-- A SENDRAW whose frame of `0x55` has just had its stop slot, with `rest` to follow. -/
def betweenFrames (rest : List Byte) : State :=
  { idle8 with cyccnt := 253, irqen := false, irqsave := true, seq := ⟨.run, .sendRaw, rest, 0x55, 9, 250, 3⟩ }

/-- A bare DELAY of 10 ticks, one tick before its end, with the counter wrapped. -/
def waiting8 : State := { idle8 with cyccnt := 3, seq := { Seq.reset with mode := .run, dstart := 250, dlen := 10 } }

/-- A SENDFMT rendering the text `"ok"`. -/
def rendering8 (left : Nat) : State := { idle8 with rendering := some ⟨[0x6F, 0x6B], left⟩ }

/-- The state a step answers with. -/
def nextOf : Host.Outcome State Fault Refusal → Option State
  | .next t => some t
  | _ => none

/-- The reason a step is refused. -/
def refusalOf : Host.Outcome State Fault Refusal → Option Refusal
  | .refused r => some r
  | _ => none

/-- The result a step hands to the caller. -/
def resultOf (o : Host.Outcome State Fault Refusal) : Option Result := (nextOf o).bind (·.result)

/-- The pin, tick by tick, from the state on: `n` levels. -/
def levels : Nat → State → List Bit
  | 0, _ => []
  | n + 1, s => s.txd :: (match step s with | .next t => levels n t | _ => [])

def X : RegId := defaultParams.regQX
def Y : RegId := defaultParams.regQY
def Z : RegId := defaultParams.regQZ
def H16 : Resolution := defaultParams.res16

/-! ## WellFormed refuses -/

theorem test_wf_refuses_wide_delay : (Instr.delay 256).wf p8 = false ∧ (Instr.delay 255).wf p8 = true := by decide
theorem test_wf_refuses_subnormal_zero : (Instr.f16Subnormal true 0).wf p8 = false := by decide
theorem test_wf_refuses_nan_without_fraction : (Instr.f16Nan false 0).wf p8 = false := by decide
theorem test_wf_refuses_normal_exponent_0 : (Instr.f16Normal false 0 1).wf p8 = false := by decide
theorem test_wf_refuses_normal_exponent_31 : (Instr.f16Normal false 31 1).wf p8 = false := by decide

/-! ## Decoding, from the words of R72, R76, R90 and the table -/

theorem test_decode_delay : decodeRequest (.op 0b000 (.cycles 4)) = .ok (.delay 4) := by decide
theorem test_decode_sendRaw : decodeRequest (.op 0b001 (.message [0x41])) = .ok (.sendRaw [0x41]) := by decide
theorem test_decode_sendFmt :
    decodeRequest (.op 0b010 (.text ⟨[0x25, 0x64]⟩ [.int (-1)])) = .ok (.sendFmt ⟨[0x25, 0x64]⟩ [.int (-1)]) := by
  decide
theorem test_decode_decode : decodeRequest (.op 0b011 (.raw 0x3C01)) = .ok (.decode 0x3C01) := by decide
theorem test_decode_reconstruct :
    decodeRequest (.op 0b100 (.readings [⟨X, H16, 1⟩])) = .ok (.reconstruct [⟨X, H16, 1⟩]) := by decide
theorem test_decode_reserved5 : decodeRequest (.op 0b101 .none) = .ok .reserved5 := by decide
theorem test_decode_reserved6 : decodeRequest (.op 0b110 (.raw 1)) = .ok .reserved6 := by decide
theorem test_decode_reserved7 : decodeRequest (.op 0b111 .none) = .ok .reserved7 := by decide
theorem test_decode_f16Zero : decodeRequest (.half 0b1000000000000000) = .ok (.f16Zero true) := by decide
theorem test_decode_f16Subnormal : decodeRequest (.half 0b1000001000000000) = .ok (.f16Subnormal true 512) := by decide
theorem test_decode_f16Inf : decodeRequest (.half 0b0111110000000000) = .ok (.f16Inf false) := by decide
theorem test_decode_f16Nan : decodeRequest (.half 0b1111111111111111) = .ok (.f16Nan true 1023) := by decide
/-- V-D14: `s = 0`, `e = 14`, `m = 205`. -/
theorem test_decode_f16Normal : decodeRequest (.half 0b0011100011001101) = .ok (.f16Normal false 14 205) := by decide
/-- V-F11: `FRAME(0xA5) = 0x34A`. -/
theorem test_decode_frame : decodeRequest (.frame 0b1101001010) = .ok (.frame 0xA5) := by decide
theorem test_decode_frame_refuses_start : decodeRequest (.frame 0b1101001011) = .error .frameStartBit := by decide
theorem test_decode_frame_refuses_stop : decodeRequest (.frame 0b0101001010) = .error .frameStopBit := by decide
theorem test_decode_refuses_operands : decodeRequest (.op 0 (.raw 3)) = .error .operandsDoNotFit := by decide

/-! ## Unit DEC: vectors V-D, S, V-Q -/

/-- V-D2, V-D23, V-D6: a signed zero, the greatest normal, the greatest subnormal. -/
theorem test_exec_decode :
    [0x8000, 0x7BFF, 0x03FF].map (fun r => resultOf (exec (.decode r) idle8)) =
      [0x80000000, 0x477FE000, 0x387FC000].map (fun v => some (.float v)) := by decide +kernel

theorem test_exec_f16Zero : resultOf (exec (.f16Zero true) idle8) = some (.float 0x80000000) := by decide +kernel
/-- V-D4. -/
theorem test_exec_f16Subnormal : resultOf (exec (.f16Subnormal true 1) idle8) = some (.float 0xB3800000) := by
  decide +kernel
/-- V-D26. -/
theorem test_exec_f16Inf : resultOf (exec (.f16Inf true) idle8) = some (.float 0xFF800000) := by decide +kernel
/-- V-D18. -/
theorem test_exec_f16Normal : resultOf (exec (.f16Normal false 15 1) idle8) = some (.float 0x3F802000) := by
  decide +kernel

/-- V-Q3: other entries are skipped, the order does not matter; `w` of S6. -/
theorem test_exec_reconstruct :
    resultOf (exec (.reconstruct [⟨Y, H16, 0⟩, ⟨⟨9⟩, H16, 0x1234⟩, ⟨Z, H16, 0⟩, ⟨X, H16, 0x38CD⟩, ⟨⟨9⟩, ⟨7⟩, 0xFFFF⟩]) idle8)
      = some (.quaternion ⟨0x3F4CC800, 0x3F19A000, 0, 0⟩) := by decide +kernel

/-- V-Q8, V-Q6, V-Q12: another resolution is absent, equal duplicates are duplicates, the check comes first. -/
theorem test_exec_reconstruct_error :
    [[⟨X, H16, 0x3800⟩, ⟨Y, H16, 0x3800⟩, ⟨Z, ⟨7⟩, 0x3800⟩],
     [⟨X, H16, 0x3C00⟩, ⟨X, H16, 0x3C00⟩, ⟨Y, H16, 0⟩, ⟨Z, H16, 0⟩],
     [⟨X, H16, 0x7E00⟩, ⟨Y, H16, 0⟩]].map (fun rs => resultOf (exec (.reconstruct rs) idle8)) =
      List.replicate 3 (some (.error .missingOrDuplicateAxis)) := by decide +kernel

/-- Vectors S7, S9, S10, S12, S13, S18, S20 and E5: `w` under the default `F32`. -/
theorem test_solver_vectors :
    [(0x38CC, 0, 0), (0x3C01, 0, 0), (0x3BFF, 0, 0), (0x39A8, 0x39A8, 0), (0x3C00, 1, 0),
      (0x3555, 0x3555, 0x3555), (0x3666, 0x3A66, 0x350F)].map (fun v => (quaternionOf ieee v.1 v.2.1 v.2.2).w) =
      [0x3F4CDFFE, 0, 0x3CFFF800, 0x3C6F7751, 0, 0x3F510C73, 0x3EA2420F] ∧
    solveW ieee 0x3F19999A 0 0 = 0x3F4CCCCD := by decide +kernel

/-! ## Unit TX: vectors V-T, V-F, V-S, V-M and programs P1, P2 -/

/-- V-T2. -/
theorem test_exec_delay_zero : (nextOf (exec (.delay 0) idle8)).map (·.busy) = some false := by decide +kernel

/-- V-T8: ticks 10 to 255 taken, the wait misses a lap and ends after 266 ticks. -/
theorem test_delay_misses_lap :
    let s := { idle8 with
      cyccnt := 0
      inputs := .request (.op 0 (.cycles 10)) :: List.replicate 9 (.tick .none) ++
        List.replicate 246 (.tick .maskable) }
    ((nextOf (steps 266 s)).map (·.busy), (nextOf (steps 267 s)).map (fun t => (t.busy, t.cyccnt, t.tick))) =
      (some true, some (false, 10, 266)) := by decide +kernel

/-- V-S2: `"Hi"` with `P = 1`, then the idle line. -/
theorem test_sendRaw_waveform :
    (nextOf (exec (.sendRaw [0x48, 0x69]) State.reset)).map (levels 21) =
      some ("000010010101001011011".toList.map (· == '1')) := by decide +kernel

/-- P1: across a counter wrap, masked until tick 80, then restored. -/
theorem test_program_P1 :
    let s := { State.reset with
      cfg := p32
      cyccnt := 0xFFFFFFE0
      irqen := true
      inputs := [.request (.op 1 (.message [0x48, 0x69]))] }
    ((nextOf (steps 80 s)).map (fun t => (t.busy, t.irqen)),
      (nextOf (steps 81 s)).map (fun t => (t.busy, t.irqen, t.txd, t.cyccnt, t.tick))) =
      (some (true, false), some (false, true, true, 0x30, 80)) := by decide +kernel

/-- V-M6 and V-M7: 300 bytes are cut to 127, and a zero byte ends the text. -/
theorem test_buffer_cut :
    cstr (fillBuf (List.replicate 300 0x78) State.reset.fmtbuf) = List.replicate 127 0x78 ∧
    cstr (fillBuf [0x61, 0x62, 0, 0x63, 0x64] State.reset.fmtbuf) = [0x61, 0x62] := by decide +kernel

/-- R120's example, `"ok"` sent from the buffer: the first byte's frame begins, masked. -/
theorem test_sendText :
    let t := idle8.sendText [0x6F, 0x6B, 0x0A]
    (t.seq.kind, t.seq.cur, t.seq.rest, t.txd, t.irqen, t.irqsave, memRead t.fmtbuf 3) =
      (.sendFmt, 0x6F, [0x6B, 0x0A], false, false, true, 0) := by decide +kernel

/-- V-F11 with `P = 3`: the ten slots of one frame, as SENDRAW invokes it, and the mask then restored. -/
theorem test_exec_frame :
    ((nextOf (exec (.frame 0xA5) (betweenFrames []))).map (levels 30),
      (nextOf (exec (.frame 0xA5) (betweenFrames []))).bind fun t =>
        (nextOf (steps 30 t)).map fun u => (u.busy, u.irqen)) =
      (some ("000111000111000000111000111111".toList.map (· == '1')), some (false, true)) := by decide +kernel

/-- R93: SENDBYTE cannot be requested, and runs inside a SENDRAW only. -/
theorem test_frame_refused :
    refusalOf (step (idle8With [.request (.frame 0x34A)])) = some .internalProcedure ∧
    refusalOf (exec (.frame 0xA5) idle8) = some .internalProcedure ∧
    refusalOf (exec (.frame 0xA5) waiting8) = some .internalProcedure := by decide +kernel

theorem test_exec_reserved : refusalOf (exec .reserved6 idle8) = some (.reservedSelector 6) := by decide +kernel

theorem test_busy_refused :
    refusalOf (step { sending8 with inputs := [.request (.op 0 (.cycles 1))] }) = some .busy ∧
    refusalOf (step { sending8 with inputs := [.tick .unmaskable] }) = some .unmaskablePreemption ∧
    refusalOf (step { sending8 with inputs := [.pinWrite true] }) = some .pinShared := by decide +kernel

/-- The host's two functions on one word of each format. -/
theorem test_fetch_word :
    (nextOf (step (State.reset.withFetchWord 8 1))).isSome ∧
    (nextOf (step (State.reset.withFetchWord 10 0x290))).map (fun t => (t.txd, t.seq.cur, t.seq.rest, t.irqen)) =
      some (false, 0x48, [], false) ∧
    resultOf (step (State.reset.withFetchWord 16 0x7C00)) = some (.float 0x7F800000) ∧
    decodeTableWord 16 0x7C00 = some (.f16Inf false) := by decide +kernel

/-! ## Every obligation with hypotheses has a witness that meets them -/

theorem witness_EncodeThenDecode : (Instr.f16Normal true 30 1023).wf p8 = true := by decide

theorem witness_HalfWordHasOneClass :
    (Instr.f16Nan true 1).wf p8 = true ∧ encode (.f16Nan true 1) = .half 0xFC01 := by decide

theorem witness_HalfClassesByFields :
    (halfExp 0x8000 = 0 ∧ halfMant 0x8000 = 0) ∧ (halfExp 0x03FF = 0 ∧ halfMant 0x03FF ≠ 0) ∧
    (halfExp 0xFC00 = 31 ∧ halfMant 0xFC00 = 0) ∧ (halfExp 0x7C01 = 31 ∧ halfMant 0x7C01 ≠ 0) ∧
    (halfExp 0x7BFF ≠ 0 ∧ halfExp 0x7BFF ≠ 31) ∧ (halfExp 0x0400 ≠ 0 ∧ halfExp 0x0400 ≠ 31) := by decide

theorem witness_FrameSlotLevels : ∃ k : Nat, k < 8 := ⟨7, by decide⟩

theorem witness_StepRunsDecoded :
    (idle8With [.request (.op 0 (.cycles 255))]).inputs = .request (.op 0 (.cycles 255)) :: [] ∧
    decodeRequest (.op 0 (.cycles 255)) = .ok (.delay 255) ∧ (Instr.delay 255).wf idle8.cfg = true ∧
    (∀ b, Instr.delay 255 ≠ .frame b) := by
  refine ⟨by decide, by decide, by decide, ?_⟩
  intro b h
  cases h

theorem witness_StepRefusesIllegalRequest :
    (idle8With [.request (.frame 0x290)]).inputs = .request (.frame 0x290) :: [] ∧
    decodeRequest (.frame 0x290) = .ok (.frame 0x48) ∧
    (idle8With [.request (.frame 1)]).inputs = .request (.frame 1) :: [] ∧
    decodeRequest (.frame 1) = .error .frameStartBit ∧
    (idle8With [.request (.op 0 (.cycles 256))]).inputs = .request (.op 0 (.cycles 256)) :: [] ∧
    decodeRequest (.op 0 (.cycles 256)) = .ok (.delay 256) ∧ (Instr.delay 256).wf idle8.cfg = false := by decide

theorem witness_ReservedSelectorsRefused :
    (idle8With [.request (.op 5 .none)]).inputs = .request (.op 5 .none) :: [] ∧ 5 ≤ (5 : Selector).toNat ∧
    (idle8With [.request (.op 7 (.raw 1))]).inputs = .request (.op 7 (.raw 1)) :: [] ∧
    5 ≤ (7 : Selector).toNat := by decide

theorem witness_StepOfOtherInputs :
    idle8.inputs = [] ∧ (idle8With [.tick .maskable]).inputs = .tick .maskable :: [] ∧
    (idle8With [.irqWrite false]).inputs = .irqWrite false :: [] ∧
    (idle8With [.pinWrite true]).inputs = .pinWrite true :: [] ∧
    (idle8With [.counterWrite 256]).inputs = .counterWrite 256 :: [] ∧
    (idle8With [.messageWrite]).inputs = .messageWrite :: [] ∧ idle8.busy = false ∧ sending8.busy = true := by
  decide

/-- A safe state in the middle of a frame, and its step. -/
theorem witness_StepKeepsSafe : sending8.Inv ∧ ∃ t, step sending8 = .next t := by
  refine ⟨?_, _, rfl⟩
  constructor <;>
    simp [sending8, idle8, p8, State.inFrame, State.inWindow, State.elapsed, State.reset, subW, frameBit,
      frameWord]

theorem witness_TickAdvancesCounter :
    (nextOf (passTick .none waiting8)).isSome ∧ (nextOf (passTick .unmaskable waiting8)).isSome := by decide +kernel

/-- An instruction, and the causes that move the counter: a tick and another agent's write. -/
theorem witness_OnlyTicksMoveCounter :
    (nextOf (exec (.delay 1) idle8)).isSome ∧
    (nextOf (step idle8)).map (fun t => (t.cyccnt, t.tick)) = some (251, 1) ∧
    (nextOf (step (idle8With [.counterWrite 257]))).map (fun t => (t.cyccnt, t.tick)) = some (1, 0) := by
  decide +kernel

theorem witness_ConfigurationIsConstant : (nextOf (step sending8)).isSome := by decide +kernel

theorem witness_ElapsedCountIsModular : 0x20 < 2 ^ 32 := by decide

theorem witness_TakenTicks :
    waiting8.irqen = true ∧ sending8.irqen = false ∧ sending8.busy = true := by decide

theorem witness_DelayInvoked : idle8.busy = false := by decide

theorem witness_quiet : (idle8With [.tick .none, .tick .maskable]).quiet := by
  simp [State.quiet, idle8With]

theorem witness_DelayLastsExactly :
    (idle8With [.tick .none]).busy = false ∧ idle8.cyccnt < 2 ^ idle8.cfg.cntW ∧ 255 < 2 ^ idle8.cfg.cntW ∧
    (idle8With [.tick .none]).undisturbed ∧
    State.undisturbed { idle8With [.tick .maskable] with irqen := false } := by
  refine ⟨by decide, by decide, by decide, .inl ?_, .inr ⟨?_, rfl⟩⟩
  · simp [State.unpreempted, idle8With]
  · simp [State.quiet, idle8With]

theorem witness_DelayNeverEarly :
    waiting8.seq.mode = .run ∧ waiting8.seq.kind = .delay ∧ waiting8.rendering = none ∧
    (nextOf (passTick .none waiting8)).map (·.seq.mode) = some .idle ∧
    (nextOf (passTick .maskable waiting8)).map (·.seq.mode) = some .run := by decide +kernel

theorem witness_SendRawInvoked : idle8.busy = false := by decide

theorem witness_SendRawEmptyMessage : idle8.busy = false := by decide

/-- The hypotheses of the SENDRAW runs, on a message whose last byte and last slot are in range. -/
theorem witness_SendRawWaveform :
    (idle8With [.tick .none, .tick .maskable]).busy = false ∧ idle8.txd = true ∧
    idle8.cyccnt < 2 ^ idle8.cfg.cntW ∧ (idle8With [.tick .none, .tick .maskable]).quiet ∧
    1 < [0x55#8, 0x41#8].length ∧ 9 < 10 ∧ 2 < idle8.cfg.bitPeriod :=
  ⟨by decide, by decide, by decide, witness_quiet, by decide, by decide, by decide⟩

theorem witness_SendRawLeavesRest :
    (idle8With [.tick .none, .tick .maskable]).busy = false ∧ idle8.txd = true ∧
    idle8.cyccnt < 2 ^ idle8.cfg.cntW ∧ (idle8With [.tick .none, .tick .maskable]).quiet ∧ [0x55#8] ≠ [] :=
  ⟨by decide, by decide, by decide, witness_quiet, by decide⟩

theorem witness_WaveformIgnoresCounter :
    idle8.busy = false ∧ idle8.txd = true ∧ idle8.cyccnt < 2 ^ idle8.cfg.cntW ∧ 0 < 2 ^ idle8.cfg.cntW ∧ idle8.quiet ∧
    (∃ s0, exec (.sendRaw [0x55]) idle8 = .next s0) ∧
    (∃ s1, exec (.sendRaw [0x55]) { idle8 with cyccnt := 0 } = .next s1) :=
  ⟨by decide, by decide, by decide, by decide, by simp [State.quiet, idle8, State.reset], ⟨_, rfl⟩, ⟨_, rfl⟩⟩

theorem witness_ReceiverReadsMessage :
    idle8.busy = false ∧ idle8.txd = true ∧ idle8.cyccnt < 2 ^ idle8.cfg.cntW ∧ idle8.quiet ∧
    (∃ s0, exec (.sendRaw [0x55]) idle8 = .next s0) ∧ 10 * [0x55#8].length * idle8.cfg.bitPeriod ≤ 30 :=
  ⟨by decide, by decide, by decide, by simp [State.quiet, idle8, State.reset], ⟨_, rfl⟩, by decide⟩

theorem witness_BusyRequestsRefused :
    sending8.busy = true ∧ (rendering8 1).busy = true ∧
    State.inputs { sending8 with inputs := [.request (.frame (frameWord 0xA5))] } =
      .request (.frame (frameWord 0xA5)) :: [] := by decide

theorem witness_BufferHoldsTruncatedText :
    (126 : Fin fmtSize).val < (List.replicate 300 (0x78 : Byte)).length ∧ (126 : Fin fmtSize).val < 127 ∧
    (127 : Fin fmtSize).val = min (List.replicate 300 (0x78 : Byte)).length 127 ∧
    min ([] : List Byte).length 127 < (1 : Fin fmtSize).val := by decide +kernel

theorem witness_TransmittedTextEndsAtZero :
    2 < min [0x61#8, 0x62#8, 0#8].length 127 ∧ [0x61#8, 0x62#8, 0#8][2]? = some 0 ∧
    (∀ j, j < 2 → [0x61#8, 0x62#8, 0#8][j]? ≠ some 0) := by decide

/-- Both times to render; what an unknown text leaves in the buffer is empty or not. -/
theorem witness_SendFmtInvoked :
    idle8.busy = false ∧ idle8.renderTicks.headD 0 = 0 ∧
    State.renderTicks { idle8 with renderTicks := [1] } = [0 + 1] ∧
    cstr (fillBuf [0x6F, 0x6B] idle8.fmtbuf) = 0x6F :: [0x6B] ∧ cstr (fillBuf [] idle8.fmtbuf) = [] := by
  decide +kernel

theorem witness_RenderingOutsideMask :
    (rendering8 2).rendering = some ⟨[0x6F, 0x6B], 2⟩ ∧ 1 < 2 ∧ (rendering8 2).irqen = true ∧
    (rendering8 1).rendering = some ⟨[0x6F, 0x6B], 1⟩ ∧
    cstr (fillBuf [0x6F, 0x6B] (rendering8 1).fmtbuf) = 0x6F :: [0x6B] ∧
    cstr (fillBuf [0, 0x6B] (rendering8 1).fmtbuf) = [] := by decide +kernel

theorem witness_SendFmtWaveform :
    idle8.busy = false ∧ idle8.txd = true ∧ idle8.cyccnt < 2 ^ idle8.cfg.cntW ∧ idle8.quiet ∧
    State.quiet { idle8With [.tick .maskable] with renderTicks := [2] } ∧
    State.undisturbed { idle8 with renderTicks := [2] } ∧ idle8.renderTicks.headD 0 = 0 ∧
    ∃ sent : List Byte, sent = ((Config.render ⟨[]⟩ []).take 127).takeWhile (· ≠ 0) :=
  ⟨by decide, by decide, by decide, by simp [State.quiet, idle8, State.reset],
    by simp [State.quiet, idle8With], .inl (by simp [State.unpreempted, idle8, State.reset]), rfl, _, rfl⟩

theorem witness_FrameInvoked :
    (betweenFrames [0x41]).inWindow ∧ ¬ idle8.inWindow ∧ idle8.busy = false ∧
    (betweenFrames [0x41]).rendering = none ∧ (betweenFrames [0x41]).seq.slot = 9 ∧
    (betweenFrames [0x41]).seq.rest = 0x41 :: [] ∧
    (betweenFrames [0x41]).seq.dlen ≤ (betweenFrames [0x41]).elapsed := by
  refine ⟨⟨by decide, by decide⟩, fun h => ?_, by decide, by decide, by decide, by decide, by decide⟩
  exact absurd h.1 (by decide)

theorem witness_FrameShape :
    (betweenFrames [0x41]).inWindow ∧ (betweenFrames [0x41]).rendering = none ∧
    (betweenFrames [0x41]).irqen = false ∧ (betweenFrames [0x41]).txd = true ∧
    (betweenFrames [0x41]).seq.dlen = (betweenFrames [0x41]).cfg.bitPeriod ∧
    (betweenFrames [0x41]).cyccnt < 2 ^ (betweenFrames [0x41]).cfg.cntW ∧ (betweenFrames [0x41]).quiet ∧
    9 < 10 ∧ 2 < (betweenFrames [0x41]).cfg.bitPeriod ∧ (betweenFrames [0x41]).seq.rest = 0x41 :: [] ∧
    (betweenFrames []).seq.rest = [] :=
  ⟨⟨by decide, by decide⟩, by decide, by decide, by decide, by decide, by decide,
    by simp [State.quiet, betweenFrames, idle8, State.reset], by decide, by decide, by decide, by decide⟩

theorem witness_PinCarriesOnlyFrames :
    (nextOf (step { sending8 with cyccnt := 252 })).map (·.txd) = some false ∧
    (∀ v rest, sending8.inputs ≠ .pinWrite v :: rest) := by
  refine ⟨by decide +kernel, ?_⟩
  intro v rest h
  simp [sending8, idle8, State.reset] at h

/-- The three ways `IRQEN` changes: the caller's write, the entry, the exit. -/
theorem witness_MaskWriters :
    (nextOf (step (idle8With [.irqWrite false]))).map (·.irqen) = some (!idle8.irqen) ∧
    (nextOf (step (idle8With [.request (.op 1 (.message [1]))]))).map (·.irqen) = some (!idle8.irqen) ∧
    (nextOf (step { sending8 with cyccnt := 252, seq := ⟨.run, .sendRaw, [], 0x55, 9, 250, 3⟩ })).map (·.irqen)
      = some (!sending8.irqen) := by decide +kernel

theorem witness_BufferWriters :
    (nextOf (step (rendering8 1))).map (fun t => decide (t.fmtbuf = (rendering8 1).fmtbuf)) = some false := by
  decide +kernel

theorem witness_DecoderOnlyDelivers :
    (∃ raw, Instr.f16Inf false = decodeHalfRow raw) ∧ (∃ t, exec (.f16Inf false) sending8 = .next t) :=
  ⟨⟨0x7C00, by decide⟩, _, rfl⟩

theorem witness_ResultOnlyFromDecoder :
    (nextOf (step { sending8 with inputs := [.request (.op 3 (.raw 0))] })).map (·.result) =
      some (some (.float 0)) ∧ sending8.result = none := by decide +kernel

theorem witness_ClassRowsComplete :
    (2 ^ 0 ≤ (1 : BitVec 10).toNat ∧ (1 : BitVec 10).toNat < 2 ^ (0 + 1)) ∧
    (2 ^ 9 ≤ (1023 : BitVec 10).toNat ∧ (1023 : BitVec 10).toNat < 2 ^ (9 + 1)) ∧
    (1 ≤ (1 : BitVec 5).toNat ∧ (30 : BitVec 5).toNat ≤ 30) := by decide

theorem witness_ZerosAndInfinities :
    (halfExp 0x8000 = 0 ∧ halfMant 0x8000 = 0) ∧ (halfExp 0x7C00 = 31 ∧ halfMant 0x7C00 = 0) := by decide

theorem witness_DecodeIsExact : halfExp 0x03FF ≠ 31 ∧ halfExp 0x7BFF ≠ 31 := by decide

theorem witness_DecodeNegates : ¬ (halfExp 0x7C00 = 31 ∧ halfMant 0x7C00 ≠ 0) := by decide

theorem witness_DecodeIsIncreasing :
    (0x03FF : Half).toNat < (0x7C00 : Half).toNat ∧ (0x7C00 : Half).toNat ≤ 0x7C00 := by decide

/-- Each axis once, and an axis missing. -/
theorem witness_ReconstructCompletes :
    let axis := fun (rs : List Reading) (id : RegId) => rs.filter (fun r => r.res = idle8.cfg.res16 ∧ r.id = id)
    axis [⟨Z, H16, 1⟩, ⟨X, H16, 2⟩, ⟨Y, H16, 3⟩] idle8.cfg.regQX = [⟨X, H16, 2⟩] ∧
    axis [⟨Z, H16, 1⟩, ⟨X, H16, 2⟩, ⟨Y, H16, 3⟩] idle8.cfg.regQY = [⟨Y, H16, 3⟩] ∧
    axis [⟨Z, H16, 1⟩, ⟨X, H16, 2⟩, ⟨Y, H16, 3⟩] idle8.cfg.regQZ = [⟨Z, H16, 1⟩] ∧
    (axis [⟨X, H16, 2⟩, ⟨Y, H16, 3⟩, ⟨Z, ⟨7⟩, 1⟩] idle8.cfg.regQZ).length ≠ 1 := by decide

theorem witness_ReconstructIgnoresOrder :
    List.Perm [(⟨X, H16, 2⟩ : Reading), ⟨Y, H16, 3⟩] [⟨Y, H16, 3⟩, ⟨X, H16, 2⟩] ∧
    ((⟨7⟩ : Resolution) ≠ idle8.cfg.res16) ∧
    ((⟨9⟩ : RegId) ≠ idle8.cfg.regQX ∧ (⟨9⟩ : RegId) ≠ idle8.cfg.regQY ∧ (⟨9⟩ : RegId) ≠ idle8.cfg.regQZ) ∧
    idle8.cfg = sending8.cfg ∧ (∃ t, exec (.reconstruct []) idle8 = .next t) ∧
    (∃ t, exec (.reconstruct []) sending8 = .next t) :=
  ⟨List.Perm.swap _ _ _, by decide, by decide, rfl, ⟨_, rfl⟩, ⟨_, rfl⟩⟩

/-- S8 is clamped, S4 is not. -/
theorem witness_SolverClamps :
    ieee.lt (radicand ieee 0x3F800000 0x3F000000 0) 0x00000000 = true ∧
    ieee.lt (radicand ieee 0x3F000000 0x3F000000 0x3F000000) 0x00000000 = false := by decide +kernel

/-- An instance of `F32` with the properties R150 lists that is not the default one. -/
def otherF32 : F32Ops where
  mul a b := if isNaN a || isNaN b then 0x7FC00000 else f32Inf false
  add a b := if isNaN a || isNaN b then 0x7FC00000 else f32Inf false
  sub a b := if isNaN a || isNaN b then 0x7FC00000 else f32Inf true
  sqrt a := if a = 0x00000000 ∨ a = 0x80000000 then a else 0x7FC00000
  lt a b := a == f32Inf true && b != f32Inf true && !isNaN b

theorem otherF32_listed : ListedProperties otherF32 where
  inf_mul_inf := by decide +kernel
  one_sub_inf := by decide +kernel
  sqrt_zero := by decide +kernel
  sqrt_neg_zero := by decide +kernel
  zeros_equal := by decide +kernel
  nan_operand a b h := by
    have hl : otherF32.lt a b = false := by
      by_cases ha : a = f32Inf true
      · subst ha
        have hi : isNaN (f32Inf true) = false := by decide
        simp_all [otherF32]
      · simp [otherF32, ha]
    have hn : (isNaN a || isNaN b) = true := by simpa using h
    simp only [otherF32, hn, if_true]
    exact ⟨by decide, by decide, by decide, hl⟩
  sqrt_nan a h := by
    have ha : ¬ (a = 0x00000000 ∨ a = 0x80000000) := by
      rintro (rfl | rfl) <;> exact absurd h (by decide)
    simp only [otherF32, ha, if_false]
    decide

theorem witness_NegativeRadicandGivesZero :
    f32Lt (radicand ieee 0x3F800000 0x3F000000 0) 0x00000000 = true ∧ ListedProperties otherF32 ∧
    otherF32.lt (radicand otherF32 0x3F800000 0 0) 0x00000000 = true :=
  ⟨by decide +kernel, otherF32_listed, by decide +kernel⟩

theorem witness_NaNComponentGivesNaN : isNaN 0x7F800001 = true ∧ ListedProperties otherF32 :=
  ⟨by decide, otherF32_listed⟩

theorem witness_InfiniteComponentClamps :
    isNaN 0xFF800000 = false ∧ isNaN 0 = false ∧ f32Mag 0xFF800000 = 0x7F800000 := by decide

theorem witness_SolvedWIsNumber : isNaN 0x7F7FFFFF = false ∧ isNaN 0xFF800000 = false ∧ isNaN 0 = false := by decide

theorem witness_SignsDoNotMatter : isNaN 0x3F000000 = false ∧ isNaN 0x80000000 = false := by decide

/-- A configuration with a tolerance of `2^-24`. -/
def tolerant : Params := { defaultParams with floatTol := 1 / 2 ^ 24 }

theorem witness_DefaultFloatSpecials :
    isNaN 0xFFFFFFFF = true ∧ ieee.lt 0xFF800000 0x00000000 = true ∧ tolerant.arith = .ieee ∧
    1 / 2 ^ 24 ≤ tolerant.floatTol :=
  ⟨by decide, by decide +kernel, rfl, le_refl _⟩

theorem witness_RoundingIsNearestEven :
    2 * (rneShift 5 1 * 2 ^ 1) + 2 ^ 1 = 2 * 5 ∧ 2 ^ 80 - 1 < 2 ^ 80 := by decide

/-- 0.75 and -0.5, and a pattern of value 0.25. -/
theorem witness_OperationsAreCorrectlyRounded :
    f32Value 0x3F400000 = some (3 / 4) ∧ f32Value 0xBF000000 = some (-1 / 2) ∧
    f32Value 0x3E800000 = some (1 / 4) ∧ (0 : Rat) ≤ 1 / 4 := by
  refine ⟨?_, ?_, ?_, by norm_num⟩ <;> decide +kernel

end Sys2Proof.Tests
end

/-! The proofs of the family `00_scope.md`: what the operations of unit TX, a tick and an instruction leave
unchanged, and with it the configuration (R7, R24) and the result of unit DEC (R2); the fetch of a request
(R18, R93); the elapsed count (R12, R101, R102). -/

namespace Sys2Proof.Machine

/-! ## What an instant of unit TX, a tick and an instruction leave unchanged -/

/-- What the body of R119's loop never changes. -/
theorem advance_spec (s : State) :
    s.advance.cfg = s.cfg ∧ s.advance.cyccnt = s.cyccnt ∧ s.advance.tick = s.tick ∧
      s.advance.result = s.result ∧ s.advance.inputs = s.inputs ∧ s.advance.renderTicks = s.renderTicks := by
  rcases advance_cases s with ⟨_, h⟩ | ⟨_, _, h⟩ | ⟨_, _, b, rest, _, h⟩ | ⟨_, _, _, h⟩
  case inl | inr.inl | inr.inr.inl => simp [h]
  case inr.inr.inr => simp [h, release_spec s.seq.kind s]

/-- What unit TX never changes at an instant of its own. -/
theorem act_spec (s : State) :
    s.act.cfg = s.cfg ∧ s.act.cyccnt = s.cyccnt ∧ s.act.tick = s.tick ∧
      s.act.result = s.result ∧ s.act.inputs = s.inputs ∧ s.act.renderTicks = s.renderTicks := by
  rcases act_cases s with ⟨r, _, _, h⟩ | ⟨r, _, _, h⟩ | ⟨_, _, _, h⟩ | ⟨_, _, h⟩
  case inl => simp [h, sendText_spec r.text s]
  case inr.inr.inl => simp [h, advance_spec s]
  case inr.inl | inr.inr.inr => simp [h]

/-- A tick moves the counter and the tick index by one, and changes neither the configuration, the result,
the inputs nor the rendering times, whoever has it. -/
theorem passTick_spec {p : Preempt} {s t : State} (h : passTick p s = .next t) :
    t.cfg = s.cfg ∧ t.cyccnt = addW s.cfg.cntW s.cyccnt 1 ∧ t.tick = s.tick + 1 ∧
      t.result = s.result ∧ t.inputs = s.inputs ∧ t.renderTicks = s.renderTicks := by
  rcases passTick_cases h with ⟨rfl, _⟩ | ⟨rfl, _⟩
  · simp [act_spec s.countTick]
  · simp

/-- What the start of a rendering never changes. -/
theorem beginRender_spec (text : List Byte) (n : Nat) (s : State) :
    (s.beginRender text n).cfg = s.cfg ∧ (s.beginRender text n).cyccnt = s.cyccnt ∧
      (s.beginRender text n).tick = s.tick ∧ (s.beginRender text n).result = s.result ∧
      (s.beginRender text n).inputs = s.inputs ∧ (s.beginRender text n).renderTicks = s.renderTicks := by
  rcases beginRender_cases text n s with ⟨_, h⟩ | ⟨_, h⟩
  · simp [h, sendText_spec text s]
  · simp [h]

/-- The instructions of unit DEC: DECODE, RECONSTRUCT and the class rows (R76, R140, R154). -/
def deliversResult : Instr → Bool
  | .decode _ | .reconstruct _ => true
  | .f16Zero _ | .f16Subnormal _ _ | .f16Inf _ | .f16Nan _ _ | .f16Normal _ _ _ => true
  | .delay _ | .sendRaw _ | .sendFmt _ _ | .frame _ => false
  | .reserved5 | .reserved6 | .reserved7 => false

/-- Everything an instruction can do, when it is not refused: one of the four operations of unit TX, or the
delivery of a result of unit DEC. -/
theorem exec_cases {i : Instr} {s t : State} (h : exec i s = .next t) :
    (∃ cycles, i = .delay cycles ∧ s.busy = false ∧ t = if cycles = 0 then s else s.startWait cycles) ∨
      (∃ bytes, i = .sendRaw bytes ∧ s.busy = false ∧ t = s.beginSend .sendRaw bytes) ∨
      (∃ format args, i = .sendFmt format args ∧ s.busy = false ∧
        t = s.takeRenderTicks.beginRender (Config.render format args) (s.renderTicks.headD 0)) ∨
      (∃ b, i = .frame b ∧ s.seq.mode = .run ∧ s.seq.kind ≠ .delay ∧ t = s.sendByte b) ∨
      (deliversResult i = true ∧ ∃ r, t = s.deliver r) := by
  cases i with
  | delay cycles =>
    simp only [exec, execDelay] at h
    split at h <;> simp_all
  | sendRaw bytes =>
    simp only [exec, execSendRaw] at h
    split at h <;> simp_all
  | sendFmt format args =>
    simp only [exec, execSendFmt] at h
    split at h <;> simp_all
  | frame b =>
    simp only [exec, execFrame] at h
    split at h <;> simp_all
  | reserved5 | reserved6 | reserved7 => cases h
  | reconstruct readings =>
    simp only [exec, execReconstruct] at h
    split at h <;> cases h <;> exact .inr (.inr (.inr (.inr ⟨rfl, _, rfl⟩)))
  | decode | f16Zero | f16Subnormal | f16Inf | f16Nan | f16Normal =>
    cases h
    exact .inr (.inr (.inr (.inr ⟨rfl, _, rfl⟩)))

/-- What no instruction changes (R7, R14, R22), and that only those of unit DEC change the result (R2). -/
theorem exec_spec {i : Instr} {s t : State} (h : exec i s = .next t) :
    t.cfg = s.cfg ∧ t.cyccnt = s.cyccnt ∧ t.tick = s.tick ∧ t.inputs = s.inputs ∧
      (deliversResult i = false → t.result = s.result) := by
  rcases exec_cases h with
    ⟨cycles, _, _, rfl⟩ | ⟨bytes, _, _, rfl⟩ | ⟨format, args, _, _, rfl⟩ | ⟨b, _, _, _, rfl⟩ | ⟨hd, r, rfl⟩
  · split <;> simp
  · simp [beginSend_spec .sendRaw bytes s]
  · simp [beginRender_spec]
  · simp
  · simp [hd]

/-! ## Requests -/

/-- The frame of a byte is the only instruction that cannot be requested (R93). -/
theorem requestable_of_ne_frame {i : Instr} (h : ∀ b, i ≠ .frame b) : requestable i = true := by
  cases i with
  | frame b => exact absurd rfl (h b)
  | _ => rfl

/-- A request that decodes to an instruction of unit DEC carries selector 3 or 4, or is a bare word. -/
theorem decodeRequest_deliversResult {r : Request} {i : Instr} (h : decodeRequest r = .ok i)
    (hi : deliversResult i = true) :
    (∃ raw, r = .op 3 (.raw raw)) ∨ (∃ rs, r = .op 4 (.readings rs)) ∨ (∃ raw, r = .half raw) := by
  cases r with
  | half raw => exact .inr (.inr ⟨raw, rfl⟩)
  | frame w =>
    simp only [decodeRequest, decodeFrame] at h
    split at h
    · cases h
    · split at h <;> cases h
      cases hi
  | op sel args =>
    simp only [decodeRequest, decodeOp] at h
    split at h <;> cases h
    case h_4 raw hsel => exact .inl ⟨raw, by rw [BitVec.eq_of_toNat_eq (y := 3#3) hsel]; rfl⟩
    case h_5 rs hsel => exact .inr (.inl ⟨rs, by rw [BitVec.eq_of_toNat_eq (y := 4#3) hsel]; rfl⟩)
    all_goals cases hi

/-! ## The elapsed count (R12, R101) -/

/-- `subW` as an integer. -/
theorem subW_cast (w a b : Nat) :
    ((subW w a b : Nat) : Int) = ((a : Int) - (b : Int)) % ((2 ^ w : Nat) : Int) :=
  Int.toNat_of_nonneg (Int.emod_nonneg _ (by exact_mod_cast (Nat.two_pow_pos w).ne'))

/-- Moving both readings by the same ticks does not change the elapsed count (R102). -/
theorem subW_addW_addW (w a b c : Nat) : subW w (addW w a c) (addW w b c) = subW w a b := by
  rw [← Int.natCast_inj, subW_cast, subW_cast]
  simp only [addW, Int.natCast_emod, Nat.cast_add]
  rw [Int.emod_sub_emod, Int.sub_emod_emod, add_sub_add_right_eq_sub]

/-- `k` ticks after a reading, short of a lap, the elapsed count is `k` (R101). -/
theorem subW_addW_self (w a k : Nat) (h : k < 2 ^ w) : subW w (addW w a k) a = k := by
  rw [← Int.natCast_inj, subW_cast]
  simp only [addW, Int.natCast_emod, Nat.cast_add]
  rw [Int.emod_sub_emod, add_sub_cancel_left]
  exact Int.emod_eq_of_lt (Int.natCast_nonneg k) (by exact_mod_cast h)

/-! ## The obligations -/

/-- Settles O16: no case of a step, of a tick or of an instruction writes `cfg`. -/
theorem configurationIsConstant : Obligations.ConfigurationIsConstant := by
  intro s t h
  rcases step_cases h with
    ⟨_, ht⟩ | ⟨_, _, _, ht⟩ | ⟨_, _, _, _, _, he⟩ | ⟨_, _, _, _, rfl⟩ | ⟨_, _, _, _, rfl⟩ | ⟨_, _, _, _, rfl⟩ |
      ⟨_, _, _, rfl⟩
  case inl | inr.inl => exact (passTick_spec ht).1
  case inr.inr.inl => exact (exec_spec he).1
  all_goals rfl

/-- Settles O17, from the integer form of `subW`. -/
theorem elapsedCountIsModular : Obligations.ElapsedCountIsModular :=
  ⟨subW_cast, subW_addW_self, subW_addW_addW, by decide⟩

/-- Settles O40: of all a step can do, only an instruction of unit DEC writes the result, and only a request
of the three forms decodes to one. -/
theorem resultOnlyFromDecoder : Obligations.ResultOnlyFromDecoder := by
  intro s t h hne
  rcases step_cases h with
    ⟨_, ht⟩ | ⟨_, _, _, ht⟩ | ⟨r, rest, i, hin, hf, he⟩ | ⟨_, _, _, _, rfl⟩ | ⟨_, _, _, _, rfl⟩ |
      ⟨_, _, _, _, rfl⟩ | ⟨_, _, _, rfl⟩
  case inl | inr.inl =>
    obtain ⟨_, _, _, hresult, _⟩ := passTick_spec ht
    exact absurd hresult hne
  case inr.inr.inl =>
    obtain ⟨hdecode, _⟩ := fetchRequest_ok.mp hf
    obtain ⟨_, _, _, _, hresult⟩ := exec_spec he
    cases hi : deliversResult i
    · exact absurd (hresult hi) hne
    · exact ⟨r, rest, hin, decodeRequest_deliversResult hdecode hi⟩
  all_goals exact absurd rfl hne

/-- Settles O7: such a request is fetched, and a fetched instruction is executed. -/
theorem stepRunsDecoded : Obligations.StepRunsDecoded := by
  intro s r rest i hin hdecode hwf hframe
  have hf : fetchRequest s.cfg r = .ok i := fetchRequest_ok.mpr ⟨hdecode, hwf, requestable_of_ne_frame hframe⟩
  simp only [step, hin, hf]

end Sys2Proof.Machine

/-! The proofs of the family `10_state.md`: the invariant of a safe run (R22, R23, R28, R118, R175), and who
moves the counter (R22), the pin (R23), the mask (R25) and the buffer (R27). -/

namespace Sys2Proof.Machine

/-! ## The invariant -/

/-- A frame is in flight just in the masked window: SENDRAW, alone or in SENDFMT, is all that is no DELAY. -/
theorem inFrame_iff_inWindow (s : State) : s.inFrame ↔ s.inWindow := by
  unfold State.inFrame State.inWindow
  cases s.seq.kind <;> simp

theorem not_inFrame_of_idle {s : State} (hm : s.seq.mode = .idle) : ¬ s.inFrame := by
  rintro ⟨hrun, _⟩
  simp [hm] at hrun

theorem not_inWindow_of_idle {s : State} (hm : s.seq.mode = .idle) : ¬ s.inWindow :=
  mt (inFrame_iff_inWindow s).mpr (not_inFrame_of_idle hm)

/-- What the invariant says of an idle sequencer: ranges, the pin at 1, and a rendering with ticks left. -/
theorem inv_iff_of_idle {s : State} (hm : s.seq.mode = .idle) :
    s.Inv ↔ s.cyccnt < 2 ^ s.cfg.cntW ∧ s.seq.dstart < 2 ^ s.cfg.cntW ∧ s.seq.dlen < 2 ^ s.cfg.cntW ∧
      s.txd = true ∧ (∀ r, s.rendering = some r → 1 ≤ r.left) ∧ Input.pinWrite false ∉ s.inputs := by
  have hframe := not_inFrame_of_idle hm
  have hwindow := not_inWindow_of_idle hm
  constructor
  · intro h
    exact ⟨h.counter_lt, h.dstart_lt, h.dlen_lt, h.idle_high hframe, fun r hr => (h.render_first r hr).2,
      h.pin_left_high⟩
  · rintro ⟨hcounter, hdstart, hdlen, hhigh, hrender, hpin⟩
    exact
      { counter_lt := hcounter
        dstart_lt := hdstart
        dlen_lt := hdlen
        dlen_pos := fun hrun => by simp [hm] at hrun
        masked := fun hw => absurd hw hwindow
        slot_level := fun hf => absurd hf hframe
        on_time := fun hw => absurd hw hwindow
        idle_high := fun _ => hhigh
        render_first := fun r hr => ⟨hm, hrender r hr⟩
        pin_left_high := hpin }

/-- The end of an operation meets the invariant if it leaves the pin at 1. -/
theorem endRun_inv {s : State} (hcounter : s.cyccnt < 2 ^ s.cfg.cntW) (hhigh : s.txd = true)
    (hr : s.rendering = none) (hpin : Input.pinWrite false ∉ s.inputs) : s.endRun.Inv := by
  have hdead (n : Nat) : n % 2 ^ s.cfg.cntW < 2 ^ s.cfg.cntW := Nat.mod_lt _ (Nat.two_pow_pos _)
  exact (inv_iff_of_idle (endRun_mode s)).mpr ⟨hcounter, hdead _, hdead _, hhigh, by simp [hr], hpin⟩

/-- A slot just put on the pin in the masked window meets the invariant. -/
theorem driveSlot_inv {s : State} (k : Fin 10) (hw : s.inWindow) (hcounter : s.cyccnt < 2 ^ s.cfg.cntW)
    (hdlen : s.seq.dlen = s.cfg.bitPeriod) (hmask : s.irqen = false) (hr : s.rendering = none)
    (hpin : Input.pinWrite false ∉ s.inputs) : (s.driveSlot k).Inv where
  counter_lt := hcounter
  dstart_lt := hcounter
  dlen_lt := hdlen ▸ s.cfg.bitPeriod_lt
  dlen_pos := fun _ => hdlen ▸ s.cfg.bitPeriod_pos
  masked := fun _ => hmask
  slot_level := fun _ => ⟨rfl, hdlen⟩
  on_time := fun _ => by
    have hpos : 0 < s.cfg.bitPeriod := s.cfg.bitPeriod_pos
    simpa [State.elapsed, hdlen] using hpos
  idle_high := fun hf => absurd ((inFrame_iff_inWindow s).mpr hw) hf
  render_first := by simp [hr]
  pin_left_high := hpin

/-- A tick keeps the invariant if it does not bring the masked window to the end of a wait. -/
theorem countTick_inv {s : State} (h : s.Inv) (hot : s.inWindow → s.countTick.elapsed < s.seq.dlen) :
    s.countTick.Inv :=
  { h with
    counter_lt := addW_lt _ _ _
    on_time := hot }

/-- The entry of SENDRAW keeps the invariant. -/
theorem beginSend_inv {s : State} {kind : Kind} (hkind : kind = .sendRaw ∨ kind = .sendFmt)
    (bytes : List Byte) (h : s.Inv) (hm : s.seq.mode = .idle) (hr : s.rendering = none) :
    (s.beginSend kind bytes).Inv := by
  cases bytes with
  | nil =>
    obtain ⟨hcfg, hcyc, htxd, hseq, hrender, _, _, hinputs, _⟩ := release_spec kind s.enterMasked
    rw [inv_iff_of_idle hm] at h
    rw [beginSend_nil, inv_iff_of_idle (by rw [hseq]; exact hm), hcfg, hcyc, htxd, hseq, hrender, hinputs]
    exact h
  | cons b rest => exact driveSlot_inv 0 ⟨rfl, hkind⟩ h.counter_lt rfl rfl hr h.pin_left_high

/-- The write step of SENDFMT and the entry of its SENDRAW step keep the invariant. -/
theorem sendText_inv {s : State} (text : List Byte) (h : s.Inv) (hm : s.seq.mode = .idle) :
    (s.sendText text).Inv :=
  beginSend_inv (.inr rfl) _ { h with render_first := nofun } hm rfl

/-- Rendering for at least a tick more keeps the invariant. -/
theorem setRendering_inv {s : State} (r : Rendering) (hleft : 1 ≤ r.left) (h : s.Inv)
    (hm : s.seq.mode = .idle) : State.Inv { s with rendering := some r } :=
  { h with render_first := fun _ hr => Option.some.inj hr ▸ ⟨hm, hleft⟩ }

/-- The body of R119's loop, at the tick that ends a wait, restores the invariant. -/
theorem advance_countTick_inv {s : State} (h : s.Inv) (hrun : s.seq.mode = .run) (hr : s.rendering = none) :
    s.countTick.advance.Inv := by
  have hcounter : s.countTick.cyccnt < 2 ^ s.cfg.cntW := addW_lt _ _ _
  rcases advance_cases s.countTick with
    ⟨hkind, ha⟩ | ⟨hkind, _, ha⟩ | ⟨hkind, _, b, rest, _, ha⟩ | ⟨hkind, hslot, _, ha⟩ <;> rw [ha]
  case inl =>
    exact endRun_inv hcounter (h.idle_high fun hf => hf.2 hkind) hr h.pin_left_high
  all_goals
    have hf : s.inFrame := ⟨hrun, hkind⟩
    have hw : s.inWindow := (inFrame_iff_inWindow s).mp hf
    obtain ⟨hlevel, hdlen⟩ := h.slot_level hf
  case inr.inl | inr.inr.inl =>
    exact driveSlot_inv _ hw hcounter hdlen (h.masked hw) hr h.pin_left_high
  case inr.inr.inr =>
    obtain ⟨hcfg, hcyc, htxd, _, hrender, _, _, hinputs, _⟩ := release_spec s.countTick.seq.kind s.countTick
    have hstop : s.seq.slot.val = 9 := by
      have := s.seq.slot.isLt
      simp only [countTick_seq] at hslot
      omega
    have hhigh : s.txd = true := by rw [hlevel, hstop, frameBit_stop]
    exact endRun_inv (by rw [hcfg, hcyc]; exact hcounter) (by rw [htxd]; exact hhigh)
      (by rw [hrender]; exact hr) (by rw [hinputs]; exact h.pin_left_high)

/-- A tick at whose instant unit TX acts keeps the invariant. -/
theorem act_countTick_inv {s : State} (h : s.Inv) : s.countTick.act.Inv := by
  have hidle (hm : s.seq.mode = .idle) : s.countTick.Inv :=
    countTick_inv h fun hw => absurd hw (not_inWindow_of_idle hm)
  rcases act_cases s.countTick with
    ⟨r, hr, _, ha⟩ | ⟨r, hr, hleft, ha⟩ | ⟨hr, hrun, _, ha⟩ | ⟨_, hwait, ha⟩ <;> rw [ha]
  · obtain ⟨hm, _⟩ := h.render_first r hr
    exact sendText_inv _ (hidle hm) hm
  · obtain ⟨hm, _⟩ := h.render_first r hr
    exact setRendering_inv _ (show 1 ≤ r.left - 1 by omega) (hidle hm) hm
  · exact advance_countTick_inv h hrun hr
  · exact countTick_inv h fun hw => hwait hw.1

/-- A tick keeps the invariant, whoever has it: a taken tick finds unit TX outside the masked window. -/
theorem passTick_inv {p : Preempt} {s t : State} (h : s.Inv) (ht : passTick p s = .next t) : t.Inv := by
  rcases passTick_cases ht with ⟨rfl, _⟩ | ⟨rfl, hfree, _⟩
  · exact act_countTick_inv h
  · refine countTick_inv h fun hw => ?_
    rcases hfree with hirq | hbusy
    · simp [h.masked hw] at hirq
    · obtain ⟨hm, _⟩ := (busy_eq_false s).mp hbusy
      exact absurd hw (not_inWindow_of_idle hm)

/-- The start of a wait of at least a tick keeps the invariant. -/
theorem startWait_inv {s : State} {cycles : Nat} (hpos : cycles ≠ 0) (hlt : cycles < 2 ^ s.cfg.cntW)
    (h : s.Inv) (hm : s.seq.mode = .idle) (hr : s.rendering = none) : (s.startWait cycles).Inv :=
  have hwindow : ¬ (s.startWait cycles).inWindow := fun hw => by simpa using hw.2
  have hframe : ¬ (s.startWait cycles).inFrame := fun hf => hwindow ((inFrame_iff_inWindow _).mp hf)
  { counter_lt := h.counter_lt
    dstart_lt := h.counter_lt
    dlen_lt := hlt
    dlen_pos := fun _ => Nat.one_le_iff_ne_zero.mpr hpos
    masked := fun hw => absurd hw hwindow
    slot_level := fun hf => absurd hf hframe
    on_time := fun hw => absurd hw hwindow
    idle_high := fun _ => h.idle_high (not_inFrame_of_idle hm)
    render_first := by simp [hr]
    pin_left_high := h.pin_left_high }

/-- An instruction that a request can carry keeps the invariant. -/
theorem exec_inv {i : Instr} {s t : State} (h : s.Inv) (hwf : i.wf s.cfg = true)
    (hreq : requestable i = true) (he : exec i s = .next t) : t.Inv := by
  rcases exec_cases he with
    ⟨cycles, rfl, hbusy, rfl⟩ | ⟨bytes, rfl, hbusy, rfl⟩ | ⟨format, args, rfl, hbusy, rfl⟩ | ⟨b, rfl, _⟩ |
      ⟨_, r, rfl⟩
  case inr.inr.inr.inl => cases hreq
  case inr.inr.inr.inr => exact { h with }
  all_goals obtain ⟨hm, hr⟩ := (busy_eq_false s).mp hbusy
  · split
    · exact h
    · next hpos => exact startWait_inv hpos (of_decide_eq_true hwf) h hm hr
  · exact beginSend_inv (.inl rfl) _ h hm hr
  · have htake : s.takeRenderTicks.Inv := { h with }
    rcases beginRender_cases (Config.render format args) (s.renderTicks.headD 0) s.takeRenderTicks with
      ⟨_, hb⟩ | ⟨hn, hb⟩ <;> rw [hb]
    · exact sendText_inv _ htake hm
    · exact setRendering_inv _ (Nat.one_le_iff_ne_zero.mpr hn) htake hm

/-- Taking the next input off the list keeps the invariant. -/
theorem setInputs_inv {s : State} {i : Input} {rest : List Input} (h : s.Inv) (hin : s.inputs = i :: rest) :
    State.Inv { s with inputs := rest } :=
  { h with pin_left_high := fun hmem => h.pin_left_high (hin ▸ List.mem_cons_of_mem i hmem) }

/-! ## The pin and the mask -/

/-- All that unit TX can do to the pin and the mask: it leaves both as they are; it puts a slot on the pin in the
masked window, entering the window first or staying in it; it leaves the window and restores the mask. -/
def State.PinMaskMove (s t : State) : Prop :=
  (t.txd = s.txd ∧ t.irqen = s.irqen) ∨
    (t.inWindow ∧ t.txd = frameBit t.seq.cur t.seq.slot ∧
      (t.irqen = s.irqen ∨ t.irqen = false ∧ t.irqsave = s.irqen)) ∨
    (s.inWindow ∧ t.seq.mode = .idle ∧ t.txd = s.txd ∧ t.irqen = s.irqsave)

/-- SENDRAW enters the window, or on the empty message leaves pin and mask as they are (R112, R114). -/
theorem beginSend_pinMaskMove {kind : Kind} (hkind : kind = .sendRaw ∨ kind = .sendFmt) (bytes : List Byte)
    (s : State) : s.PinMaskMove (s.beginSend kind bytes) := by
  cases bytes with
  | nil =>
    have hne : kind ≠ .delay := by rcases hkind with rfl | rfl <;> simp
    obtain ⟨_, _, htxd, _⟩ := release_spec kind s.enterMasked
    exact .inl ⟨htxd, by simp [beginSend_nil, release_irqen, hne]⟩
  | cons b rest => exact .inr (.inl ⟨⟨rfl, hkind⟩, rfl, .inr ⟨rfl, rfl⟩⟩)

theorem sendText_pinMaskMove (text : List Byte) (s : State) : s.PinMaskMove (s.sendText text) :=
  beginSend_pinMaskMove (.inr rfl) _ { s with rendering := none, fmtbuf := fillBuf text s.fmtbuf }

/-- The body of R119's loop ends a DELAY, puts the next slot on the pin, or leaves the window (R117). -/
theorem advance_pinMaskMove {s : State} (hrun : s.seq.mode = .run) : s.PinMaskMove s.advance := by
  rcases advance_cases s with
    ⟨_, ha⟩ | ⟨hkind, _, ha⟩ | ⟨hkind, _, b, rest, _, ha⟩ | ⟨hkind, _, _, ha⟩ <;> rw [ha]
  case inl => exact .inl ⟨rfl, rfl⟩
  all_goals have hw : s.inWindow := (inFrame_iff_inWindow s).mp ⟨hrun, hkind⟩
  case inr.inl | inr.inr.inl => exact .inr (.inl ⟨hw, rfl, .inl rfl⟩)
  case inr.inr.inr =>
    obtain ⟨_, _, htxd, _⟩ := release_spec s.seq.kind s
    exact .inr (.inr ⟨hw, rfl, htxd, by simp [release_irqen, hkind]⟩)

theorem act_pinMaskMove (s : State) : s.PinMaskMove s.act := by
  rcases act_cases s with ⟨r, _, _, ha⟩ | ⟨r, _, _, ha⟩ | ⟨_, hrun, _, ha⟩ | ⟨_, _, ha⟩ <;> rw [ha]
  · exact sendText_pinMaskMove r.text s
  · exact .inl ⟨rfl, rfl⟩
  · exact advance_pinMaskMove hrun
  · exact .inl ⟨rfl, rfl⟩

theorem passTick_pinMaskMove {p : Preempt} {s t : State} (h : passTick p s = .next t) : s.PinMaskMove t := by
  rcases passTick_cases h with ⟨rfl, _⟩ | ⟨rfl, _⟩
  · exact act_pinMaskMove s.countTick
  · exact .inl ⟨rfl, rfl⟩

theorem exec_pinMaskMove {i : Instr} {s t : State} (h : exec i s = .next t) : s.PinMaskMove t := by
  rcases exec_cases h with
    ⟨cycles, _, _, rfl⟩ | ⟨bytes, _, _, rfl⟩ | ⟨format, args, _, _, rfl⟩ | ⟨b, _, hrun, hkind, rfl⟩ |
      ⟨_, r, rfl⟩
  · split <;> exact .inl ⟨rfl, rfl⟩
  · exact beginSend_pinMaskMove (.inl rfl) bytes s
  · rcases beginRender_cases (Config.render format args) (s.renderTicks.headD 0) s.takeRenderTicks with
      ⟨_, hb⟩ | ⟨_, hb⟩ <;> rw [hb]
    · exact sendText_pinMaskMove _ s.takeRenderTicks
    · exact .inl ⟨rfl, rfl⟩
  · exact .inr (.inl ⟨(inFrame_iff_inWindow s).mp ⟨hrun, hkind⟩, rfl, .inl rfl⟩)
  · exact .inl ⟨rfl, rfl⟩

/-- All that a step can do to the pin and the mask: what unit TX does, or a write of one of them by others. -/
theorem step_pinMaskMove {s t : State} (h : step s = .next t) :
    s.PinMaskMove t ∨ (∃ v rest, s.inputs = .pinWrite v :: rest ∧ t.irqen = s.irqen) ∨
      (∃ v rest, s.inputs = .irqWrite v :: rest ∧ t.txd = s.txd) := by
  rcases step_cases h with
    ⟨_, ht⟩ | ⟨_, _, _, ht⟩ | ⟨_, _, _, _, _, he⟩ | ⟨v, rest, hin, _, rfl⟩ | ⟨v, rest, hin, _, rfl⟩ |
      ⟨_, _, _, _, rfl⟩ | ⟨_, _, _, rfl⟩
  · exact .inl (passTick_pinMaskMove ht)
  · have hmove := passTick_pinMaskMove ht
    exact .inl hmove
  · have hmove := exec_pinMaskMove he
    exact .inl hmove
  · exact .inr (.inr ⟨v, rest, hin, rfl⟩)
  · exact .inr (.inl ⟨v, rest, hin, rfl⟩)
  · exact .inl (.inl ⟨rfl, rfl⟩)
  · exact .inl (.inl ⟨rfl, rfl⟩)

/-! ## The buffer -/

/-- The body of R119's loop writes the buffer only when a SENDFMT returns. -/
theorem advance_fmtbuf {s : State} (hne : s.advance.fmtbuf ≠ s.fmtbuf) :
    s.seq.kind = .sendFmt ∧ s.advance.seq.mode = .idle := by
  rcases advance_cases s with ⟨_, ha⟩ | ⟨_, _, ha⟩ | ⟨_, _, b, rest, _, ha⟩ | ⟨_, _, _, ha⟩ <;> rw [ha] at hne ⊢
  case inl | inr.inl | inr.inr.inl => exact absurd rfl hne
  case inr.inr.inr => exact ⟨by_contra fun hkind => hne (release_fmtbuf s.seq.kind s hkind), rfl⟩

/-- At an instant of its own unit TX writes the buffer only when rendering ends or a SENDFMT returns. -/
theorem act_fmtbuf {s : State} (hne : s.act.fmtbuf ≠ s.fmtbuf) :
    s.rendering ≠ none ∨ (s.seq.mode = .run ∧ s.seq.kind = .sendFmt ∧ s.act.seq.mode = .idle) := by
  rcases act_cases s with ⟨r, hr, _⟩ | ⟨r, hr, _⟩ | ⟨_, hrun, _, ha⟩ | ⟨_, _, ha⟩
  case inl | inr.inl => exact .inl (by simp [hr])
  case inr.inr.inl =>
    rw [ha] at hne ⊢
    exact .inr ⟨hrun, advance_fmtbuf hne⟩
  case inr.inr.inr => exact absurd (by rw [ha]) hne

theorem passTick_fmtbuf {p : Preempt} {s t : State} (h : passTick p s = .next t) (hne : t.fmtbuf ≠ s.fmtbuf) :
    s.rendering ≠ none ∨ (s.seq.mode = .run ∧ s.seq.kind = .sendFmt ∧ t.seq.mode = .idle) := by
  rcases passTick_cases h with ⟨rfl, _⟩ | ⟨rfl, _⟩
  · exact act_fmtbuf (s := s.countTick) hne
  · exact absurd rfl hne

/-- SENDFMT is the only instruction that writes the buffer (R27). -/
theorem exec_fmtbuf {i : Instr} {s t : State} (h : exec i s = .next t) (hne : t.fmtbuf ≠ s.fmtbuf) :
    ∃ format args, i = .sendFmt format args := by
  rcases exec_cases h with
    ⟨cycles, _, _, rfl⟩ | ⟨bytes, _, _, rfl⟩ | ⟨format, args, hi, _⟩ | ⟨b, _, _, _, rfl⟩ | ⟨_, r, rfl⟩
  · split at hne <;> exact absurd rfl hne
  · cases bytes with
    | nil => exact absurd (release_fmtbuf .sendRaw s.enterMasked (by simp)) hne
    | cons b rest => exact absurd rfl hne
  · exact ⟨format, args, hi⟩
  · exact absurd rfl hne
  · exact absurd rfl hne

/-- Only a request of selector 2 with a template and its arguments decodes to SENDFMT (R90, R91). -/
theorem decodeRequest_sendFmt {r : Request} {format : Template} {args : List Arg}
    (h : decodeRequest r = .ok (.sendFmt format args)) : r = .op 2 (.text format args) := by
  cases r with
  | half raw =>
    simp only [decodeRequest, decodeHalfRow] at h
    split_ifs at h <;> cases h
  | frame w =>
    simp only [decodeRequest, decodeFrame] at h
    split_ifs at h
    cases h
  | op sel operands =>
    simp only [decodeRequest, decodeOp] at h
    split at h <;> cases h
    next hsel => rw [BitVec.eq_of_toNat_eq (y := 2#3) hsel]; rfl

/-! ## Unit DEC -/

theorem deliversResult_decodeHalfRow (raw : Half) : deliversResult (decodeHalfRow raw) = true := by
  unfold decodeHalfRow
  split_ifs <;> rfl

/-- An instruction of unit DEC hands over a result and does nothing else (R30, R57). -/
theorem exec_of_deliversResult {i : Instr} {s t : State} (hi : deliversResult i = true)
    (h : exec i s = .next t) : ∃ r, t = s.deliver r := by
  rcases exec_cases h with ⟨_, rfl, _⟩ | ⟨_, rfl, _⟩ | ⟨_, _, rfl, _⟩ | ⟨_, rfl, _⟩ | ⟨_, hr⟩
  case inr.inr.inr.inr => exact hr
  all_goals cases hi

/-! ## The obligations -/

/-- Settles O13: the invariant is kept by a tick and by an instruction, and a write by others finds unit TX
idle, where the pin stays at 1 and nothing of a frame is asked. -/
theorem stepKeepsSafe : Obligations.StepKeepsSafe := by
  intro s t h hstep
  rcases step_cases hstep with
    ⟨_, ht⟩ | ⟨p, rest, hin, ht⟩ | ⟨r, rest, i, hin, hf, he⟩ | ⟨v, rest, hin, hbusy, rfl⟩ |
      ⟨v, rest, hin, hbusy, rfl⟩ | ⟨v, rest, hin, hbusy, rfl⟩ | ⟨rest, hin, _, rfl⟩
  case inl => exact passTick_inv h ht
  all_goals have h' := setInputs_inv h hin
  case inr.inl => exact passTick_inv h' ht
  case inr.inr.inl =>
    obtain ⟨_, hwf, hreq⟩ := fetchRequest_ok.mp hf
    exact exec_inv h' hwf hreq he
  case inr.inr.inr.inr.inr.inr => exact h'
  all_goals
    obtain ⟨hm, _⟩ := (busy_eq_false s).mp hbusy
    have hframe := not_inFrame_of_idle hm
    have hwindow := not_inWindow_of_idle hm
  · exact { h' with masked := fun hw => absurd hw hwindow }
  · have hv : v = true := by
      cases v
      · exact absurd (by simp [hin]) h.pin_left_high
      · rfl
    exact { h' with slot_level := fun hf => absurd hf hframe, idle_high := fun _ => hv }
  · exact { h' with counter_lt := Nat.mod_lt _ (Nat.two_pow_pos _), on_time := fun hw => absurd hw hwindow }

/-- Settles O14: a tick goes through `countTick`, and unit TX does not touch the counter. -/
theorem tickAdvancesCounter : Obligations.TickAdvancesCounter := by
  intro p s t h
  obtain ⟨_, hcyccnt, htick, _⟩ := passTick_spec h
  exact ⟨hcyccnt, htick⟩

/-- Settles O15: no instruction writes the counter, the tick index or the inputs, and of the writes by others
only that of the counter moves it. -/
theorem onlyTicksMoveCounter : Obligations.OnlyTicksMoveCounter := by
  constructor
  · intro i s t h
    obtain ⟨_, hcyccnt, htick, hinputs, _⟩ := exec_spec h
    exact ⟨hcyccnt, htick, hinputs⟩
  · intro s t h hmoved
    rcases step_cases h with
      ⟨hin, _⟩ | ⟨p, rest, hin, _⟩ | ⟨_, _, _, _, _, he⟩ | ⟨_, _, _, _, rfl⟩ | ⟨_, _, _, _, rfl⟩ |
        ⟨v, rest, hin, _, rfl⟩ | ⟨_, _, _, rfl⟩
    case inl => exact .inl (.inl hin)
    case inr.inl => exact .inl (.inr ⟨p, rest, hin⟩)
    case inr.inr.inl =>
      obtain ⟨_, hcyccnt, htick, _⟩ := exec_spec he
      exact absurd hmoved (by simp [hcyccnt, htick])
    case inr.inr.inr.inr.inr.inl => exact .inr ⟨rfl, v, rest, hin, rfl⟩
    all_goals exact absurd hmoved (by simp)

/-- Settles O36: unit TX moves the pin in the masked window only, where the state after the step, which meets
the invariant with the state before, has its mask at 0. -/
theorem pinCarriesOnlyFrames : Obligations.PinCarriesOnlyFrames := by
  intro s t h hnoWrite
  rcases step_pinMaskMove h with
    (⟨htxd, _⟩ | ⟨hw, hlevel, _⟩ | ⟨_, _, htxd, _⟩) | ⟨v, rest, hin, _⟩ | ⟨_, _, _, htxd⟩
  · exact .inl htxd
  · exact .inr ⟨(inFrame_iff_inWindow t).mpr hw, hw, hlevel, fun hs => (stepKeepsSafe s t hs h).masked hw⟩
  · exact .inl htxd
  · exact absurd hin (hnoWrite v rest)
  · exact .inl htxd

/-- Settles O37: of all that a step can do to the mask, three things change it. -/
theorem maskWriters : Obligations.MaskWriters := by
  intro s t h hne
  rcases step_pinMaskMove h with
    (⟨_, hkept⟩ | ⟨hw, _, hkept | ⟨hmask, hsave⟩⟩ | ⟨hw, hidle, _, hrestored⟩) | ⟨_, _, _, hkept⟩ |
      ⟨v, rest, hin, _⟩
  · exact absurd hkept hne
  · exact absurd hkept hne
  · exact .inr (.inl ⟨hw, hmask, hsave⟩)
  · exact .inr (.inr ⟨hw, hidle, hrestored⟩)
  · exact absurd hkept hne
  · exact .inl ⟨v, rest, hin⟩

/-- Settles O38: a tick writes the buffer at the two ends of SENDFMT's use of it, an instruction only as SENDFMT,
which one form of request carries. -/
theorem bufferWriters : Obligations.BufferWriters := by
  intro s t h hne
  rcases step_cases h with
    ⟨_, ht⟩ | ⟨_, _, _, ht⟩ | ⟨r, rest, i, hin, hf, he⟩ | ⟨_, _, _, _, rfl⟩ | ⟨_, _, _, _, rfl⟩ |
      ⟨_, _, _, _, rfl⟩ | ⟨_, _, _, rfl⟩
  case inl | inr.inl => exact (passTick_fmtbuf ht hne).imp_right .inr
  case inr.inr.inl =>
    obtain ⟨format, args, rfl⟩ := exec_fmtbuf he hne
    obtain ⟨hdecode, _⟩ := fetchRequest_ok.mp hf
    exact .inr (.inl ⟨format, args, rest, decodeRequest_sendFmt hdecode ▸ hin⟩)
  all_goals exact absurd rfl hne

/-- Settles O39: each of these instructions is one of unit DEC. -/
theorem decoderOnlyDelivers : Obligations.DecoderOnlyDelivers := by
  rintro i s t (⟨raw, rfl⟩ | ⟨rs, rfl⟩ | ⟨raw, rfl⟩) h
  · exact exec_of_deliversResult rfl h
  · exact exec_of_deliversResult rfl h
  · exact exec_of_deliversResult (deliversResult_decodeHalfRow raw) h

/-- Settles O10: `step` by the input in front, where taking the input off leaves unit TX as busy as it was. -/
theorem stepOfOtherInputs : Obligations.StepOfOtherInputs := by
  intro s rest
  refine ⟨fun hin => ?_, fun p hin => ?_, fun v hin => ?_, fun v hin => ?_, fun v hin => ?_, fun hin => ?_⟩ <;>
    rw [step, hin] <;> rfl

/-- Settles O11: the pin and the mode are R34's, the bit period is in its range by the configuration. -/
theorem launchState : Obligations.LaunchState :=
  ⟨rfl, rfl, rfl, defaultParams.bitPeriod_pos, Nat.le_sub_one_of_lt defaultParams.bitPeriod_lt⟩

/-- Settles O12: the launch state is idle with the pin at 1, its counters are 0 and no input is to come. -/
theorem launchStateIsSafe : Obligations.LaunchStateIsSafe :=
  have hpos : 0 < 2 ^ State.reset.cfg.cntW := Nat.two_pow_pos _
  (inv_iff_of_idle rfl).mpr ⟨hpos, hpos, hpos, rfl, nofun, List.not_mem_nil⟩

/-- Settles O28: each operation of unit TX asks for BUSY first, and a frame word, which decodes to its
internal procedure, cannot be requested at all. -/
theorem busyRequestsRefused : Obligations.BusyRequestsRefused := by
  intro s hbusy
  refine ⟨fun cycles => ?_, fun bytes => ?_, fun format args => ?_, fun b rest hin => ?_⟩
  · simp [exec, execDelay, hbusy]
  · simp [exec, execSendRaw, hbusy]
  · simp [exec, execSendFmt, hbusy]
  · have hdecode : decodeRequest (.frame (frameWord b)) = .ok (.frame b) := Laws.RoundTrip.frame b s.cfg rfl
    simp [step, hin, fetchRequest, hdecode, requestable]

end Sys2Proof.Machine

/-! The proofs of the family `20_memory.md`: SENDRAW from its entry to its exit, slot by slot and byte by byte
(R105, R113, R117, R118), and with it what a completed SENDRAW leaves as it was (R57, R179). -/

namespace Sys2Proof.Machine

/-! ## A transmission in flight -/

/-- Two stretches of time in which unit TX does nothing are one. -/
theorem waited_waited (j k : Nat) (s : State) : (s.waited j).waited k = s.waited (j + k) := by
  simp [State.waited, Nat.add_assoc, Nat.mod_add_mod]

/-- A SENDRAW that runs undisturbed, alone or as the last step of a SENDFMT, whatever slot it is in. -/
structure State.Sending (s : State) : Prop where
  undisturbed : s.undisturbed
  counter_lt : s.cyccnt < 2 ^ s.cfg.cntW
  not_rendering : s.rendering = none
  running : s.seq.mode = .run
  not_delay : s.seq.kind ≠ .delay
  /-- Each slot is one bit period long (R105, R119). -/
  dlen_eq : s.seq.dlen = s.cfg.bitPeriod

theorem State.Sending.waited {s : State} (h : s.Sending) (k : Nat) : (s.waited k).Sending :=
  { h with
    undisturbed := undisturbed_waited k h.undisturbed
    counter_lt := Nat.mod_lt _ (Nat.two_pow_pos _) }

/-- SENDRAW takes up the byte `b` with `rest` to follow; its frame is not yet on the pin. -/
def State.loadByte (b : Byte) (rest : List Byte) (s : State) : State :=
  { s with seq := { s.seq with cur := b, rest := rest } }

theorem State.Sending.loadByte {s : State} (h : s.Sending) (b : Byte) (rest : List Byte) :
    (s.loadByte b rest).Sending :=
  { h with }

/-- The entry of SENDRAW is a transmission at its first start slot (R112). -/
theorem beginSend_eq_driveSlot (kind : Kind) (b : Byte) (rest : List Byte) (s : State) :
    s.beginSend kind (b :: rest) = ((s.enterMasked.openRun kind rest).loadByte b rest).driveSlot 0 := rfl

/-- The mask of SENDRAW keeps the maskable sources of a quiet world from disturbing it (R112, R176). -/
theorem openRun_sending {s : State} {kind : Kind} (hkind : kind ≠ .delay) (rest : List Byte)
    (hcounter : s.cyccnt < 2 ^ s.cfg.cntW) (hquiet : s.quiet) (hr : s.rendering = none) :
    (s.enterMasked.openRun kind rest).Sending where
  undisturbed := .inr ⟨hquiet, rfl⟩
  counter_lt := hcounter
  not_rendering := hr
  running := rfl
  not_delay := hkind
  dlen_eq := rfl

/-! ## Slots and frames -/

/-- A slot just put on the pin is held for one bit period, and then SENDRAW goes on (R105, R119). -/
theorem steps_slot {s : State} (h : s.Sending) (k : Fin 10) :
    steps s.cfg.bitPeriod (s.driveSlot k) = .next ((s.driveSlot k).waited s.cfg.bitPeriod).advance := by
  have hover := steps_wait_over (s := s.driveSlot k) h.undisturbed h.counter_lt h.not_rendering h.running
    (by simp [State.elapsed]) (by simpa [h.dlen_eq] using s.cfg.bitPeriod_pos)
    (by simpa [h.dlen_eq] using s.cfg.bitPeriod_lt)
  simpa [h.dlen_eq] using hover

/-- A slot before the stop slot is followed by the next one. -/
theorem advance_next_slot {s : State} (hkind : s.seq.kind ≠ .delay) {k : Nat} (hk : k + 1 < 10) (n : Nat) :
    ((s.driveSlot ⟨k, Nat.lt_of_succ_lt hk⟩).waited n).advance = (s.waited n).driveSlot ⟨k + 1, hk⟩ := by
  have hnext : (⟨k, Nat.lt_of_succ_lt hk⟩ : Fin 10) + 1 = ⟨k + 1, hk⟩ :=
    Fin.ext (by simp [Fin.val_add, Nat.mod_eq_of_lt hk])
  have hbefore : k < 9 := by omega
  simp only [State.advance, State.waited, driveSlot_seq, hkind, hbefore, if_true, if_false, hnext]
  rfl

/-- `k` bit periods after its start slot fell, a frame is at the beginning of slot `k` (R105, R118). -/
theorem steps_slots {s : State} (h : s.Sending) (k : Nat) (hk : k < 10) :
    steps (k * s.cfg.bitPeriod) (s.driveSlot 0) =
      .next ((s.waited (k * s.cfg.bitPeriod)).driveSlot ⟨k, hk⟩) := by
  induction k with
  | zero => simp [steps, waited_zero h.counter_lt]
  | succ k ih =>
    have hslot := steps_slot (h.waited (k * s.cfg.bitPeriod)) ⟨k, Nat.lt_of_succ_lt hk⟩
    rw [advance_next_slot (h.waited _).not_delay hk, waited_waited] at hslot
    rw [Nat.succ_mul, steps_add _ _ _ _ (ih (Nat.lt_of_succ_lt hk))]
    exact hslot

/-- The stop slot of a byte that is not the last is followed by the start slot of the next (R113). -/
theorem advance_stop_slot_cons {s : State} (hkind : s.seq.kind ≠ .delay) {b : Byte} {rest : List Byte}
    (hrest : s.seq.rest = b :: rest) (n : Nat) :
    ((s.driveSlot 9).waited n).advance = ((s.waited n).loadByte b rest).driveSlot 0 := by
  simp only [State.advance, State.waited, driveSlot_seq, hkind, hrest, if_false]
  rfl

/-- SENDRAW has returned after `n` ticks: the pin is at the stop level, the mask is restored, unit TX is idle
(R115, R117). -/
def State.sent (n : Nat) (s : State) : State :=
  (State.release s.seq.kind { s.waited n with txd := true }).endRun

/-- Time that passes before counts with the rest. -/
theorem sent_waited (j k : Nat) (s : State) : (s.waited j).sent k = s.sent (j + k) := by
  simp only [State.sent, waited_waited]
  rfl

/-- What the sequencer still had to send is dead once SENDRAW has returned (R57). -/
theorem sent_loadByte (b : Byte) (rest : List Byte) (k : Nat) (s : State) :
    (s.loadByte b rest).sent k = s.sent k := by
  cases hkind : s.seq.kind <;> simp only [State.sent, State.loadByte, hkind] <;> rfl

/-- The stop slot of the last byte is followed by the exit, which leaves its level on the pin (R115, R117). -/
theorem advance_stop_slot_nil {s : State} (hkind : s.seq.kind ≠ .delay) (hrest : s.seq.rest = []) (n : Nat) :
    ((s.driveSlot 9).waited n).advance = s.sent n := by
  have hsent : s.sent n =
      (State.release s.seq.kind { s.waited n with txd := frameBit s.seq.cur 9 }).endRun := by
    rw [frameBit_stop, State.sent]
  rw [hsent]
  simp only [State.advance, State.waited, driveSlot_seq, hkind, hrest, if_false]
  cases s.seq.kind <;> rfl

/-- Ten bit periods after its start slot fell, a frame is over and SENDRAW goes on (R105, R113). -/
theorem steps_frame {s : State} (h : s.Sending) :
    steps (10 * s.cfg.bitPeriod) (s.driveSlot 0) =
      .next (((s.waited (9 * s.cfg.bitPeriod)).driveSlot 9).waited s.cfg.bitPeriod).advance := by
  rw [Nat.succ_mul 9, steps_add _ _ _ _ (steps_slots h 9 (by decide))]
  exact steps_slot (h.waited (9 * s.cfg.bitPeriod)) 9

theorem steps_frame_cons {s : State} (h : s.Sending) {b : Byte} {rest : List Byte}
    (hrest : s.seq.rest = b :: rest) :
    steps (10 * s.cfg.bitPeriod) (s.driveSlot 0) =
      .next (((s.waited (10 * s.cfg.bitPeriod)).loadByte b rest).driveSlot 0) := by
  rw [steps_frame h, advance_stop_slot_cons (h.waited _).not_delay hrest, waited_waited, ← Nat.succ_mul]

theorem steps_frame_nil {s : State} (h : s.Sending) (hrest : s.seq.rest = []) :
    steps (10 * s.cfg.bitPeriod) (s.driveSlot 0) = .next (s.sent (10 * s.cfg.bitPeriod)) := by
  rw [steps_frame h, advance_stop_slot_nil (h.waited _).not_delay hrest, sent_waited, ← Nat.succ_mul]

/-! ## A whole message -/

/-- From the start slot of a byte with `rest` to follow, SENDRAW takes ten bit periods for each (R118). -/
theorem steps_message {s : State} (h : s.Sending) {rest : List Byte} (hrest : s.seq.rest = rest) :
    steps (10 * (rest.length + 1) * s.cfg.bitPeriod) (s.driveSlot 0) =
      .next (s.sent (10 * (rest.length + 1) * s.cfg.bitPeriod)) := by
  induction rest generalizing s with
  | nil => exact steps_frame_nil h hrest
  | cons b rest ih =>
    have hsplit : 10 * ((b :: rest).length + 1) * s.cfg.bitPeriod =
        10 * s.cfg.bitPeriod + 10 * (rest.length + 1) * s.cfg.bitPeriod := by
      rw [List.length_cons]; ring
    rw [hsplit, steps_add _ _ _ _ (steps_frame_cons h hrest), ← sent_waited, ← sent_loadByte b rest]
    exact ih ((h.waited _).loadByte b rest) rfl

/-- The whole state in which SENDRAW leaves a quiet world, when it sends a message that is not empty: the dead
cells are drawn, the mask is what it was, the pin is 1, and the ticks have passed (R57, R115, R117, R118). -/
theorem steps_sendRaw {s : State} (b : Byte) (rest : List Byte) (hcounter : s.cyccnt < 2 ^ s.cfg.cntW)
    (hquiet : s.quiet) (hr : s.rendering = none) :
    steps (10 * (b :: rest).length * s.cfg.bitPeriod) (s.beginSend .sendRaw (b :: rest)) =
      .next (State.endRun
        { s.waited (10 * (b :: rest).length * s.cfg.bitPeriod) with
          txd := true
          irqsave := Config.deadIrqSave s.draws
          draws := s.draws + 1 }) := by
  have h := (openRun_sending (by decide : Kind.sendRaw ≠ .delay) rest hcounter hquiet hr).loadByte b rest
  rw [beginSend_eq_driveSlot]
  exact steps_message h rfl

/-- Settles O25: the empty message returns at once with the mask restored; any other has its final state by
`steps_sendRaw`. -/
theorem sendRawLeavesRest : Obligations.SendRawLeavesRest := by
  intro bytes s hbusy hcounter hquiet
  obtain ⟨hmode, hr⟩ := (busy_eq_false s).mp hbusy
  have hexec : exec (.sendRaw bytes) s = .next (s.beginSend .sendRaw bytes) := by
    simp [exec, execSendRaw, hbusy]
  cases bytes with
  | nil =>
    have hreturned : steps (10 * ([] : List Byte).length * s.cfg.bitPeriod) (s.beginSend .sendRaw []) =
        .next (s.beginSend .sendRaw []) := by simp [steps]
    refine ⟨_, _, hexec, hreturned, ?_⟩
    simp [beginSend_nil, State.release, State.busy, Nat.mod_eq_of_lt hcounter]
  | cons b rest =>
    refine ⟨_, _, hexec, steps_sendRaw b rest hcounter hquiet hr, ?_⟩
    simp [hbusy, hmode, hr, busy_eq_false, State.waited]

end Sys2Proof.Machine

/-! The proofs of the family `30_encoding.md`: the half-precision word by its fields and its one class row
(R75, R76, R77), the frame word (R71, R72), encoder and decoder (R90, R91), and the requests that are refused
(R91, R92, R93). -/

namespace Sys2Proof.Machine

/-! ## The half-precision word (R75, R76) -/

theorem halfSign_toNat (raw : Half) : (halfSign raw).toNat = raw.toNat / 32768 := by
  have hlt := raw.isLt
  rw [halfSign, BitVec.getLsbD, Nat.toNat_testBit]
  omega

theorem halfExp_toNat (raw : Half) : (halfExp raw).toNat = raw.toNat / 1024 % 32 := by
  rw [halfExp, BitVec.extractLsb'_toNat, Nat.shiftRight_eq_div_pow]

theorem halfMant_toNat (raw : Half) : (halfMant raw).toNat = raw.toNat % 1024 := by
  rw [halfMant, BitVec.extractLsb'_toNat, Nat.shiftRight_zero]

/-- The five class rows by the fields, each with the row the word decodes to. -/
theorem decodeHalfRow_cases (raw : Half) :
    (halfExp raw = 0 ∧ halfMant raw = 0 ∧ decodeHalfRow raw = .f16Zero (halfSign raw)) ∨
      (halfExp raw = 0 ∧ halfMant raw ≠ 0 ∧
        decodeHalfRow raw = .f16Subnormal (halfSign raw) (halfMant raw)) ∨
      (halfExp raw = 31 ∧ halfMant raw = 0 ∧ decodeHalfRow raw = .f16Inf (halfSign raw)) ∨
      (halfExp raw = 31 ∧ halfMant raw ≠ 0 ∧ decodeHalfRow raw = .f16Nan (halfSign raw) (halfMant raw)) ∨
      (halfExp raw ≠ 0 ∧ halfExp raw ≠ 31 ∧
        decodeHalfRow raw = .f16Normal (halfSign raw) (halfExp raw) (halfMant raw)) := by
  rw [decodeHalfRow_eq]
  split_ifs with hzero h0 hinf h31
  · exact .inl ⟨hzero.1, hzero.2, rfl⟩
  · exact .inr (.inl ⟨h0, fun hm => hzero ⟨h0, hm⟩, rfl⟩)
  · exact .inr (.inr (.inl ⟨hinf.1, hinf.2, rfl⟩))
  · exact .inr (.inr (.inr (.inl ⟨h31, fun hm => hinf ⟨h31, hm⟩, rfl⟩)))
  · exact .inr (.inr (.inr (.inr ⟨h0, h31, rfl⟩)))

/-- The row of a word has the operands of its class. -/
theorem wf_decodeHalfRow (cfg : Params) (raw : Half) : (decodeHalfRow raw).wf cfg = true := by
  rcases decodeHalfRow_cases raw with
    ⟨_, _, h⟩ | ⟨_, hm, h⟩ | ⟨_, _, h⟩ | ⟨_, hm, h⟩ | ⟨h0, h31, h⟩
  case inl | inr.inr.inl => rw [h]; rfl
  case inr.inl | inr.inr.inr.inl => rw [h]; exact decide_eq_true hm
  case inr.inr.inr.inr =>
    have hpos : (halfExp raw).toNat ≠ 0 := fun hz => h0 (BitVec.eq_of_toNat_eq hz)
    have hmax : (halfExp raw).toNat ≠ 31 := fun hz => h31 (BitVec.eq_of_toNat_eq hz)
    have hlt := (halfExp raw).isLt
    rw [h, Instr.wf, decide_eq_true_iff]
    omega

/-- The encoder puts a word's row together to that word: the row keeps every field its class leaves open. -/
theorem encode_decodeHalfRow (raw : Half) : encode (decodeHalfRow raw) = .half raw := by
  have hfields := halfWord_fields raw
  rcases decodeHalfRow_cases raw with
    ⟨he, hm, h⟩ | ⟨he, _, h⟩ | ⟨he, hm, h⟩ | ⟨he, _, h⟩ | ⟨_, _, h⟩
  case inl | inr.inr.inl => rw [he, hm] at hfields; rw [h, encode, hfields]
  case inr.inl | inr.inr.inr.inl => rw [he] at hfields; rw [h, encode, hfields]
  case inr.inr.inr.inr => rw [h, encode, hfields]

/-- A word of class NAN has the value of its row, which puts the word together again (R144). -/
theorem exec_f16Nan_fields {raw : Half} (h31 : halfExp raw = 31) (s : State) :
    exec (.f16Nan (halfSign raw) (halfMant raw)) s = .next (s.deliver (.float (valueNan raw))) := by
  have hword : halfWord (halfSign raw) 31 (halfMant raw) = raw := h31 ▸ halfWord_fields raw
  simp only [exec, execF16Nan, hword]

/-! ## The frame word (R71, R72) -/

theorem frameWord_toNat (b : Byte) : (frameWord b).toNat = 512 + 2 * b.toNat := by
  rw [frameWord, BitVec.toNat_append, BitVec.toNat_append, ← Nat.shiftLeft_add_eq_or_of_lt b.isLt]
  show (1 <<< 8 + b.toNat) <<< 1 ||| 0 = 512 + 2 * b.toNat
  rw [Nat.or_zero, Nat.shiftLeft_eq]
  omega

/-- Slot `k + 1` carries data bit `k` (R71). -/
theorem frameBit_data (b : Byte) {k : Nat} (hk : k < 8) : frameBit b (k + 1) = b.getLsbD k := by
  rw [frameBit, frameWord_getLsbD]
  simp [hk]

/-- A word with a start bit and a stop bit is the frame of its payload. -/
theorem frameWord_framePayload {w : FrameWord} (hstart : w.getLsbD 0 = false) (hstop : w.getLsbD 9 = true) :
    frameWord (framePayload w) = w := by
  apply BitVec.eq_of_getLsbD_eq
  intro k hk
  rw [frameWord_getLsbD]
  split_ifs with h0 hdata
  · obtain rfl : k = 0 := by omega
    exact hstart.symm
  · have hk' : 1 + (k - 1) = k := by omega
    rw [framePayload, BitVec.getLsbD_extractLsb', hk', decide_eq_true hdata, Bool.true_and]
  · obtain rfl : k = 9 := by omega
    exact hstop.symm

/-- A word decodes to the frame of a byte exactly when it is that byte's frame. -/
theorem decodeFrame_eq_ok_frame (w : FrameWord) (b : Byte) :
    decodeFrame w = .ok (.frame b) ↔ w = frameWord b := by
  constructor
  · intro h
    unfold decodeFrame at h
    split_ifs at h with hstart hstop
    cases h
    exact (frameWord_framePayload (by simpa using hstart) hstop).symm
  · rintro rfl
    exact Laws.RoundTrip.frame b defaultParams rfl

/-! ## Requests that are refused (R91, R92, R93) -/

/-- A request that is not fetched is refused with the fetch's reason. -/
theorem step_of_fetchRequest_error {s : State} {r : Request} {rest : List Input} {e : Refusal}
    (hin : s.inputs = .request r :: rest) (hf : fetchRequest s.cfg r = .error e) : step s = .refused e := by
  simp only [step, hin, hf]

/-- The one instruction that cannot be requested, a frame, is well formed for every byte. -/
theorem requestable_of_not_wf {cfg : Params} {i : Instr} (h : i.wf cfg = false) : requestable i = true :=
  requestable_of_ne_frame (by rintro b rfl; cases h)

/-- The selectors that name no operation (R92). -/
theorem reserved_selector {sel : Selector} (h : 5 ≤ sel.toNat) : sel = 5 ∨ sel = 6 ∨ sel = 7 := by
  bv_omega

/-! ## The obligations -/

/-- Settles O1: the round trip of each instruction, by its constructor. -/
theorem encodeThenDecode : Obligations.EncodeThenDecode := by
  intro cfg i
  cases i with
  | delay c => exact Laws.RoundTrip.delay c cfg
  | sendRaw bytes => exact Laws.RoundTrip.sendRaw bytes cfg
  | sendFmt format args => exact Laws.RoundTrip.sendFmt format args cfg
  | decode raw => exact Laws.RoundTrip.decode raw cfg
  | reconstruct readings => exact Laws.RoundTrip.reconstruct readings cfg
  | reserved5 => exact Laws.RoundTrip.reserved5 cfg
  | reserved6 => exact Laws.RoundTrip.reserved6 cfg
  | reserved7 => exact Laws.RoundTrip.reserved7 cfg
  | f16Zero sg => exact Laws.RoundTrip.f16Zero sg cfg
  | f16Subnormal sg m => exact Laws.RoundTrip.f16Subnormal sg m cfg
  | f16Inf sg => exact Laws.RoundTrip.f16Inf sg cfg
  | f16Nan sg m => exact Laws.RoundTrip.f16Nan sg m cfg
  | f16Normal sg e m => exact Laws.RoundTrip.f16Normal sg e m cfg
  | frame b => exact Laws.RoundTrip.frame b cfg

/-- Settles O2: a word's row is well formed and encodes to the word; any other instruction that does is read
back from the word, and so is that row. -/
theorem halfWordHasOneClass : Obligations.HalfWordHasOneClass := by
  intro cfg raw
  refine ⟨wf_decodeHalfRow cfg raw, encode_decodeHalfRow raw, fun i hwf hencode => ?_⟩
  have hback : decodeRequest (.half raw) = .ok i := hencode ▸ encodeThenDecode cfg i hwf
  exact (Except.ok.inj hback).symm

/-- Settles O3: the rows by their fields, and the fields as arithmetic of the word. -/
theorem halfClassesByFields : Obligations.HalfClassesByFields := by
  intro raw
  have hmax : (31 : BitVec 5) ≠ 0 := by decide
  refine ⟨fun he hm => ?_, fun he hm => ?_, fun he hm => ?_, fun he hm => ?_, fun h0 h31 => ?_,
    halfSign_toNat raw, halfExp_toNat raw, halfMant_toNat raw⟩
  · simp only [decodeHalfRow_eq, he, hm, and_self, if_true]
  · simp only [decodeHalfRow_eq, he, hm, and_false, if_false, if_true]
  · simp only [decodeHalfRow_eq, he, hm, hmax, false_and, and_self, if_false, if_true]
  · simp only [decodeHalfRow_eq, he, hm, hmax, and_false, if_false, if_true]
  · simp only [decodeHalfRow_eq, h0, h31, false_and, if_false]

/-- Settles O4: the number and the pattern of the word, the level `driveSlot` puts on the pin, the source's
example, and which words are frames. -/
theorem frameWordForm : Obligations.FrameWordForm :=
  ⟨frameWord_toNat, fun _ => rfl, fun _ _ => rfl, by decide, by decide, decodeFrame_eq_ok_frame⟩

/-- Settles O42: DECODE tells the classes apart by the same fields and gives each the value of its row, the NaN
of the whole word included. -/
theorem decodeIsItsClassRow : Obligations.DecodeIsItsClassRow := by
  intro raw s
  show _ = Host.Outcome.next (s.deliver (.float (decodeHalf raw)))
  simp only [decodeHalfRow_eq, decodeHalf]
  split_ifs with _ _ _ h31
  · rfl
  · rfl
  · rfl
  · exact exec_f16Nan_fields h31 s
  · rfl

/-- Settles O5: the start bit, the data bits and the stop bit of the frame word. -/
theorem frameSlotLevels : Obligations.FrameSlotLevels := fun b =>
  ⟨frameBit_start b, fun _ hk => frameBit_data b hk, frameBit_stop b⟩

/-- Settles O6: each word is decoded as it stands. -/
theorem tableWordsDecode : Obligations.TableWordsDecode := by
  unfold Obligations.TableWordsDecode
  decide

/-- Settles O8: the fetch refuses the request, by the decoder's reason, by the operands, or because it is the
frame of a byte; what is ill formed is no frame. -/
theorem stepRefusesIllegalRequest : Obligations.StepRefusesIllegalRequest := by
  intro s r rest hin
  refine ⟨fun e hdecode => ?_, fun i hdecode hwf => ?_, fun b hdecode => ?_⟩ <;>
    apply step_of_fetchRequest_error hin
  · simp [fetchRequest, hdecode]
  · simp [fetchRequest, hdecode, hwf, requestable_of_not_wf hwf]
  · simp [fetchRequest, hdecode, requestable]

/-- Settles O9: a reserved selector decodes to its reserved row, which is fetched and refused. -/
theorem reservedSelectorsRefused : Obligations.ReservedSelectorsRefused := by
  refine ⟨fun s sel args rest hin hsel => ?_, fun _ => rfl, fun _ => rfl, fun _ => rfl⟩
  rcases reserved_selector hsel with rfl | rfl | rfl
  · exact stepRunsDecoded s _ rest .reserved5 hin rfl rfl nofun
  · exact stepRunsDecoded s _ rest .reserved6 hin rfl rfl nofun
  · exact stepRunsDecoded s _ rest .reserved7 hin rfl rfl nofun

end Sys2Proof.Machine

/-! The proofs of the family `40_transmitter.md`: the invocations of DELAY, SENDRAW, SENDFMT and SENDBYTE (R100,
R105, R110, R120), the duration of a DELAY (R103), the closed form of SENDRAW and of its frames (R105, R118), the
buffer SENDFMT hands to it (R122 to R126), and SENDFMT with its rendering (R121). -/

namespace Sys2Proof.Machine

/-! ## Invocations of an idle unit TX -/

theorem exec_delay_of_idle (cycles : Nat) {s : State} (hbusy : s.busy = false) :
    exec (.delay cycles) s = .next (if cycles = 0 then s else s.startWait cycles) := by
  simp [exec, execDelay, hbusy]

theorem exec_sendRaw_of_idle (bytes : List Byte) {s : State} (hbusy : s.busy = false) :
    exec (.sendRaw bytes) s = .next (s.beginSend .sendRaw bytes) := by
  simp [exec, execSendRaw, hbusy]

theorem exec_sendFmt_of_idle (format : Template) (args : List Arg) {s : State} (hbusy : s.busy = false) :
    exec (.sendFmt format args) s =
      .next (s.takeRenderTicks.beginRender (Config.render format args) (s.renderTicks.headD 0)) := by
  simp [exec, execSendFmt, hbusy]

theorem exec_frame_of_inWindow (b : Byte) {s : State} (hw : s.inWindow) :
    exec (.frame b) s = .next (s.sendByte b) :=
  if_pos ((inFrame_iff_inWindow s).mpr hw)

theorem exec_frame_of_not_inWindow (b : Byte) {s : State} (hw : ¬ s.inWindow) :
    exec (.frame b) s = .refused .internalProcedure :=
  if_neg (mt (inFrame_iff_inWindow s).mp hw)

/-- Settles O19: the two arms of DELAY's invocation. -/
theorem delayInvoked : Obligations.DelayInvoked := fun cycles _ hbusy => exec_delay_of_idle cycles hbusy

/-- Settles O22: an idle unit TX enters SENDRAW. -/
theorem sendRawInvoked : Obligations.SendRawInvoked := by
  intro b rest s hbusy
  rw [exec_sendRaw_of_idle _ hbusy, beginSend_cons]

/-- Settles O23: the mask is saved, cleared and restored at one instant, and the save is dead after it. -/
theorem sendRawEmptyMessage : Obligations.SendRawEmptyMessage := fun s hbusy =>
  ⟨Config.deadIrqSave s.draws, exec_sendRaw_of_idle [] hbusy⟩

/-- Settles O34: the entry of SENDRAW and the end of a stop slot invoke `State.sendByte`, as the frame word
does. -/
theorem frameInvoked : Obligations.FrameInvoked := by
  intro b s
  refine ⟨fun hw => ?_, exec_frame_of_not_inWindow b, fun rest hbusy => ?_, fun rest hw hr hslot hrest hdue => ?_⟩
  · rw [exec_frame_of_inWindow b hw, sendByte_eq]
  · rw [exec_sendRaw_of_idle _ hbusy, exec_frame_of_inWindow b ⟨rfl, .inl rfl⟩]
    rfl
  · have hkind : s.seq.kind ≠ .delay := ((inFrame_iff_inWindow s).mpr hw).2
    have hstart : exec (.frame b) (s.setRest rest) = .next ((s.setRest rest).sendByte b) :=
      exec_frame_of_inWindow b hw
    have hadvance : s.advance = (s.setRest rest).sendByte b := by simp [State.advance, hkind, hslot, hrest]
    rw [act_due hr hw.1 hdue, hadvance]
    exact hstart

/-! ## The write step of SENDFMT and its rendering -/

/-- The text is written and SENDRAW entered on what the buffer holds before its first zero byte (R120, R124). -/
theorem sendText_of_cons {text : List Byte} {s : State} {b : Byte} {rest : List Byte}
    (h : cstr (fillBuf text s.fmtbuf) = b :: rest) :
    s.sendText text =
      { s with
        rendering := none
        fmtbuf := fillBuf text s.fmtbuf
        irqsave := s.irqen
        irqen := false
        txd := false
        seq := ⟨.run, .sendFmt, rest, b, 0, s.cyccnt, s.cfg.bitPeriod⟩ } := by
  rw [State.sendText, h, beginSend_cons]

/-- With nothing before the first zero byte SENDFMT returns, and the save and the buffer are dead (R26, R27,
R114). -/
theorem sendText_of_nil {text : List Byte} {s : State} (h : cstr (fillBuf text s.fmtbuf) = []) :
    s.sendText text =
      { s with
        rendering := none
        fmtbuf := Config.deadBuf (s.draws + 1)
        irqsave := Config.deadIrqSave s.draws
        draws := s.draws + 2 } := by
  rw [State.sendText, h]
  rfl

/-- Rendering that has ticks left after this one only counts it (R121). -/
theorem act_rendering_counts {s : State} {r : Rendering} (hr : s.rendering = some r) (hleft : 1 < r.left) :
    s.act = { s with rendering := some ⟨r.text, r.left - 1⟩ } := by
  simp [State.act, hr, Nat.not_le.mpr hleft]

/-- The last tick of rendering writes the text and sends it (R120). -/
theorem act_rendering_ends {s : State} {r : Rendering} (hr : s.rendering = some r) (hleft : r.left ≤ 1) :
    s.act = s.sendText r.text := by
  simp [State.act, hr, hleft]

theorem busy_of_rendering {s : State} {r : Rendering} (hr : s.rendering = some r) : s.busy = true := by
  simp [State.busy, hr]

/-- Settles O31: by the ticks drawn for the rendering and, where there are none, by what the buffer holds. -/
theorem sendFmtInvoked : Obligations.SendFmtInvoked := by
  intro format args s hbusy
  obtain ⟨-, hr⟩ := (busy_eq_false s).mp hbusy
  rw [exec_sendFmt_of_idle format args hbusy]
  refine ⟨fun n hn => ?_, fun hn => ⟨fun b rest hsend => ?_, fun hsend => ?_⟩⟩ <;> rw [hn]
  · rfl
  · rw [State.beginRender, if_pos rfl, sendText_of_cons (s := s.takeRenderTicks) hsend, hr]
    rfl
  · rw [State.beginRender, if_pos rfl, sendText_of_nil (s := s.takeRenderTicks) hsend, hr]
    exact ⟨_, _, rfl⟩

/-- Settles O32: an untaken tick is one instant of a rendering unit TX, a taken one is none. -/
theorem renderingOutsideMask : Obligations.RenderingOutsideMask := by
  intro s r hr
  have hr' : s.countTick.rendering = some r := hr
  have hact : passTick .none s = .next s.countTick.act := rfl
  refine ⟨busy_of_rendering hr, fun hleft => ?_, fun hirq => ?_, fun hleft b rest hsend => ?_, fun hleft hsend => ?_⟩
  · rw [hact, act_rendering_counts hr' hleft]
    rfl
  · rw [passTick, if_pos hirq]
    rfl
  · rw [hact, act_rendering_ends hr' hleft, sendText_of_cons (s := s.countTick) hsend]
    rfl
  · rw [hact, act_rendering_ends hr' hleft, sendText_of_nil (s := s.countTick) hsend]
    exact ⟨_, _, rfl⟩

/-! ## The formatting buffer (R122 to R126) -/

theorem memRead_eq_getElem_toList (buf : FmtBuf) (i : Fin fmtSize) :
    memRead buf i = buf.toList[i.val]'(by simp) := by
  simp [memRead]

/-- Successive bytes written from `i` on stand between what was before them and what was after them. -/
theorem toList_memWriteFrom (vs : List Byte) (i : Nat) (buf : FmtBuf) (h : i + vs.length ≤ fmtSize) :
    (memWriteFrom i vs buf).toList = buf.toList.take i ++ vs ++ buf.toList.drop (i + vs.length) := by
  induction vs generalizing i buf with
  | nil => simp [memWriteFrom]
  | cons v vs ih =>
    rw [List.length_cons] at h
    have hi : i < buf.toList.length := by rw [Vector.length_toList]; omega
    have hset : (memWrite buf i v).toList = buf.toList.set i v := Vector.toList_setIfInBounds ..
    have htake : (buf.toList.set i v).take (i + 1) = buf.toList.take i ++ [v] := by
      rw [List.take_succ_eq_append_getElem (by simpa using hi), List.getElem_set_self, List.take_set_of_le le_rfl]
    rw [memWriteFrom, ih (i + 1) _ (by omega), hset, htake, List.drop_set_of_lt (by omega)]
    simp [Nat.add_assoc, Nat.add_comm 1]

/-- The buffer after the write step: the cut text, its terminator, and what was after it (R122, R123). -/
theorem toList_fillBuf (text : List Byte) (buf : FmtBuf) :
    (fillBuf text buf).toList = text.take 127 ++ 0 :: buf.toList.drop (min text.length 127 + 1) := by
  have hlen : (text.take fmtCap ++ [0]).length ≤ fmtSize := by simp
  rw [fillBuf, toList_memWriteFrom _ 0 buf (by omega)]
  simp [Nat.min_comm]

/-- Settles O29, from the buffer as a list. -/
theorem bufferHoldsTruncatedText : Obligations.BufferHoldsTruncatedText := by
  intro text buf
  refine ⟨fun i hi hcap => ?_, fun i hi => ?_, fun i hi => ?_⟩ <;>
    simp only [memRead_eq_getElem_toList, toList_fillBuf]
  · rw [List.getElem_append_left (by simp; omega), List.getElem_take]
  · rw [List.getElem_append_right (by simp; omega)]
    simp [hi]
  · obtain ⟨n, hn⟩ := Nat.exists_eq_add_of_le (Nat.succ_le_of_lt hi)
    rw [List.getElem_append_right (by simp; omega)]
    simp [hn, Nat.min_comm 127, Nat.add_assoc, Nat.add_comm 1]

/-- What comes before the first zero byte ends at any zero byte. -/
theorem takeWhile_append_zero (xs ys : List Byte) :
    (xs ++ 0 :: ys).takeWhile (· ≠ 0) = xs.takeWhile (· ≠ 0) := by
  induction xs with
  | nil => simp
  | cons x xs ih => by_cases hx : x = 0 <;> simp_all

theorem cstr_fillBuf (text : List Byte) (buf : FmtBuf) :
    cstr (fillBuf text buf) = (text.take 127).takeWhile (· ≠ 0) := by
  rw [cstr, toList_fillBuf, takeWhile_append_zero]

theorem length_cut_le (text : List Byte) : ((text.take 127).takeWhile (· ≠ 0)).length ≤ 127 :=
  (List.takeWhile_sublist _).length_le.trans (List.length_take_le 127 text)

/-- Settles O30: the terminator ends the cut text, and an earlier zero ends it before. -/
theorem transmittedTextEndsAtZero : Obligations.TransmittedTextEndsAtZero := by
  intro text buf
  rw [cstr_fillBuf]
  refine ⟨rfl, length_cut_le text, fun hmem => ?_, fun i hi hzero hbefore => ?_⟩
  · simpa using List.mem_takeWhile_imp hmem
  · have hlt : i < (text.take 127).length := by rw [List.length_take]; omega
    have hget : (text.take 127)[i] = 0 := by
      rw [List.getElem_take]
      exact (List.getElem?_eq_some_iff.mp hzero).2
    have hcut : (text.take 127).take i = text.take i := by rw [List.take_take, Nat.min_eq_left (by omega)]
    have hsplit : text.take 127 = text.take i ++ 0 :: (text.take 127).drop (i + 1) := by
      rw [← hcut, ← hget, ← List.drop_eq_getElem_cons, List.take_append_drop]
    rw [hsplit, takeWhile_append_zero, List.takeWhile_eq_self_iff]
    intro b hb
    obtain ⟨j, hj, rfl⟩ := List.mem_take_iff_getElem.mp hb
    have hne := hbefore j (by omega)
    rw [List.getElem?_eq_getElem (by omega)] at hne
    simpa using hne

/-! ## Ticks of an undisturbed or a quiet world -/

theorem steps_succ_of_step {s t : State} (h : step s = .next t) (k : Nat) : steps (k + 1) s = steps k t := by
  simp [steps, h]

theorem dropInput_countTick {s : State} (hcounter : s.cyccnt < 2 ^ s.cfg.cntW) :
    s.dropInput.countTick = s.waited 1 := by
  have h := waited_succ s 0
  rwa [waited_zero hcounter] at h

theorem quiet_waited {s : State} (k : Nat) (h : s.quiet) : (s.waited k).quiet := fun i hi =>
  h i (List.mem_of_mem_drop hi)

theorem waited_cyccnt_lt (s : State) (k : Nat) : (s.waited k).cyccnt < 2 ^ (s.waited k).cfg.cntW :=
  Nat.mod_lt _ (Nat.two_pow_pos _)

/-- A step of a quiet world is a tick of unit TX's own, or one taken from it by a source the mask lets through. -/
theorem step_of_quiet {s : State} (h : s.quiet) :
    step s = .next s.dropInput.countTick.act ∨
      (¬ s.undisturbed ∧ s.inputs ≠ [] ∧ step s = .next s.dropInput.countTick) := by
  by_cases hu : s.undisturbed
  · exact .inl (step_of_undisturbed hu)
  have hirq : s.irqen = true := eq_true_of_ne_false fun hq => hu (.inr ⟨h, hq⟩)
  cases hi : s.inputs with
  | nil => exact absurd (.inl fun i hmem => by simp [hi] at hmem) hu
  | cons i rest =>
    have hd : s.dropInput = { s with inputs := rest } := by simp [State.dropInput, hi]
    rcases h i (by simp [hi]) with rfl | rfl <;> rw [hd, step, hi]
    · exact .inl rfl
    · exact .inr ⟨hu, List.cons_ne_nil _ _, by simp [passTick, hirq]⟩

/-- In a quiet world an idle unit TX lets the ticks pass, taken or not. -/
theorem steps_idle {s : State} (hbusy : s.busy = false) (hcounter : s.cyccnt < 2 ^ s.cfg.cntW)
    (hquiet : s.quiet) (k : Nat) : steps k s = .next (s.waited k) := by
  obtain ⟨hm, hr⟩ := (busy_eq_false s).mp hbusy
  induction k with
  | zero => rw [waited_zero hcounter, steps]
  | succ k ih =>
    have hact : (s.waited (k + 1)).act = s.waited (k + 1) :=
      act_waiting hr fun hrun => absurd (hm.symm.trans hrun) (by decide)
    have hstep : step (s.waited k) = .next (s.waited (k + 1)) := by
      rcases step_of_quiet (quiet_waited k hquiet) with h | ⟨_, _, h⟩ <;> rw [h, waited_succ]
      rw [hact]
    rw [steps_add k 1 s _ ih, steps_succ_of_step hstep, steps]

/-! ## The duration of a DELAY (R103) -/

/-- A DELAY whose wait is over returns (R100). -/
theorem advance_of_delay {s : State} (hkind : s.seq.kind = .delay) : s.advance = s.endRun := if_pos hkind

/-- Settles O20: the wait begins with an elapsed count of 0, is held below `cycles` and over at `cycles`. -/
theorem delayLastsExactly : Obligations.DelayLastsExactly := by
  intro cycles s hbusy hcounter hcycles hu
  obtain ⟨-, hr⟩ := (busy_eq_false s).mp hbusy
  rcases Nat.eq_zero_or_pos cycles with rfl | hpos
  · exact ⟨s, exec_delay_of_idle 0 hbusy, nofun, s, rfl, hbusy, rfl, rfl, (Nat.mod_eq_of_lt hcounter).symm, rfl⟩
  have hexec := exec_delay_of_idle cycles hbusy
  rw [if_neg hpos.ne'] at hexec
  have hstart : (s.startWait cycles).elapsed = 0 := subW_self _ _
  refine ⟨_, hexec, fun k hk => ⟨(s.startWait cycles).waited k, ?_, rfl, rfl, rfl⟩, ?_⟩
  · exact steps_waiting k hu hcounter hr (fun _ => by rw [hstart, Nat.zero_add]; exact hk) fun _ => hcycles
  · have hover : steps cycles (s.startWait cycles) = .next ((s.startWait cycles).waited cycles).advance :=
      steps_wait_over (s := s.startWait cycles) hu hcounter hr rfl hstart hpos hcycles
    rw [advance_of_delay rfl] at hover
    exact ⟨_, hover, (busy_eq_false _).mpr ⟨rfl, hr⟩, rfl, rfl, rfl, rfl⟩

/-- Settles O21: of the two things a tick can be, only the untaken one lets unit TX poll its wait. -/
theorem delayNeverEarly : Obligations.DelayNeverEarly := by
  intro p s t hrun hkind hr ht
  have hbusy : s.busy = true := by simp [State.busy, hrun]
  rcases passTick_cases ht with ⟨rfl, hfree⟩ | ⟨rfl, hirq, hp⟩
  · by_cases hdue : s.seq.dlen ≤ s.countTick.elapsed
    · have hend : s.countTick.act = s.countTick.endRun := by
        rw [act_due (s := s.countTick) hr hrun hdue, advance_of_delay (s := s.countTick) hkind]
      rw [hend]
      exact ⟨iff_of_true rfl ⟨hfree, hdue⟩, fun h => absurd rfl h, rfl, rfl⟩
    · have hwait : s.countTick.act = s.countTick := act_waiting hr fun _ => Nat.lt_of_not_le hdue
      rw [hwait]
      exact ⟨iff_of_false (by simp [hrun]) fun h => hdue h.2, fun _ => rfl, rfl, rfl⟩
  · have htaken : ¬ untaken p s := by
      rintro (h | ⟨-, h⟩)
      · exact hp h
      · simp [h, hbusy] at hirq
    exact ⟨iff_of_false (by simp [hrun]) fun h => htaken h.1, fun _ => rfl, rfl, rfl⟩

/-! ## The closed form of a transmission (R118) -/

/-- Short of a bit period a slot stays on the pin (R105). -/
theorem steps_in_slot {s : State} (h : s.Sending) (k : Fin 10) {t : Nat} (ht : t < s.cfg.bitPeriod) :
    steps t (s.driveSlot k) = .next ((s.driveSlot k).waited t) :=
  steps_waiting t h.undisturbed h.counter_lt h.not_rendering
    (fun _ => by simpa [State.elapsed, h.dlen_eq] using ht)
    (fun _ => by simpa [h.dlen_eq] using s.cfg.bitPeriod_lt)

/-- At every tick of its frame a byte has the level of the tick's slot on the pin, masked and busy (R105). -/
theorem steps_in_frame {s : State} (h : s.Sending) {k t : Nat} (hk : k < 10) (ht : t < s.cfg.bitPeriod) :
    ∃ u, steps (k * s.cfg.bitPeriod + t) (s.driveSlot 0) = .next u ∧
      u.txd = frameBit s.seq.cur k ∧ u.irqen = s.irqen ∧ u.busy = true := by
  rw [steps_add _ t _ _ (steps_slots h k hk)]
  exact ⟨_, steps_in_slot (h.waited _) ⟨k, hk⟩ ht, rfl, rfl, by simp [State.busy, State.waited, h.running]⟩

/-- Ten bit periods for each byte before it, the frame of byte `j` begins (R113, R118). -/
theorem steps_to_byte {s : State} (h : s.Sending) (b : Byte) (rest : List Byte) (j : Nat)
    (hj : j < (b :: rest).length) :
    steps (10 * j * s.cfg.bitPeriod) ((s.loadByte b rest).driveSlot 0) =
      .next (((s.waited (10 * j * s.cfg.bitPeriod)).loadByte (b :: rest)[j] (rest.drop j)).driveSlot 0) := by
  induction j with
  | zero => simp [steps, waited_zero h.counter_lt]
  | succ j ih =>
    have hj' : j < rest.length := by simpa using hj
    have hnext := steps_frame_cons
      ((h.waited (10 * j * s.cfg.bitPeriod)).loadByte (b :: rest)[j] (rest.drop j))
      (List.drop_eq_getElem_cons hj')
    have hsplit : 10 * (j + 1) * s.cfg.bitPeriod = 10 * j * s.cfg.bitPeriod + 10 * s.cfg.bitPeriod := by ring
    rw [hsplit, steps_add _ _ _ _ (ih (by omega)), ← waited_waited]
    exact hnext

section
variable {kind : Kind} {s : State}

/-- The first half of R118's closed form: slot `k` of byte `j` of SENDRAW, alone or in a SENDFMT. -/
theorem steps_beginSend_slot (hkind : kind ≠ .delay) (hcounter : s.cyccnt < 2 ^ s.cfg.cntW) (hquiet : s.quiet)
    (hr : s.rendering = none) {bytes : List Byte} {j k t : Nat} (hj : j < bytes.length) (hk : k < 10)
    (ht : t < s.cfg.bitPeriod) :
    ∃ u, steps ((10 * j + k) * s.cfg.bitPeriod + t) (s.beginSend kind bytes) = .next u ∧
      u.txd = frameBit bytes[j] k ∧ u.irqen = false ∧ u.busy = true := by
  obtain ⟨b, rest, rfl⟩ := List.exists_cons_of_length_pos (Nat.zero_lt_of_lt hj)
  have h := openRun_sending hkind rest hcounter hquiet hr
  obtain ⟨u, hu, hlevel⟩ := steps_in_frame
    ((h.waited (10 * j * s.cfg.bitPeriod)).loadByte (b :: rest)[j] (rest.drop j)) hk ht
  have hsplit : (10 * j + k) * s.cfg.bitPeriod + t = 10 * j * s.cfg.bitPeriod + (k * s.cfg.bitPeriod + t) := by ring
  rw [beginSend_eq_driveSlot, hsplit]
  exact ⟨u, (steps_add _ _ _ _ (steps_to_byte h b rest j hj)).trans hu, hlevel⟩

/-- SENDRAW has returned in `u`, `n` ticks after `s`: unit TX is idle, the pin is at 1, the mask is as it was
and only the ticks have passed (R115, R117). -/
structure State.ReturnedAfter (n : Nat) (s u : State) : Prop where
  idle : u.busy = false
  irqen : u.irqen = s.irqen
  high : u.txd = true
  cfg : u.cfg = s.cfg
  cyccnt : u.cyccnt = (s.waited n).cyccnt
  tick : u.tick = (s.waited n).tick
  inputs : u.inputs = (s.waited n).inputs

/-- The end of the last slot restores the saved mask (R117). -/
theorem sent_returnedAfter (hkind : s.seq.kind ≠ .delay) (hr : s.rendering = none) (n : Nat) :
    State.ReturnedAfter n { s with irqen := s.irqsave } (s.sent n) := by
  obtain ⟨hcfg, hcyccnt, htxd, _, hrender, htick, _, hinputs, _⟩ :=
    release_spec s.seq.kind { s.waited n with txd := true }
  exact
    { idle := (busy_eq_false _).mpr ⟨rfl, hrender.trans hr⟩
      irqen := by simp [State.sent, release_irqen, hkind, State.waited]
      high := htxd
      cfg := hcfg
      cyccnt := hcyccnt
      tick := htick
      inputs := hinputs }

/-- SENDRAW, alone or in a SENDFMT, returns after ten bit periods for each byte; for none it does so at once
(R114, R117). -/
theorem steps_beginSend_returned (hkind : kind ≠ .delay) (hcounter : s.cyccnt < 2 ^ s.cfg.cntW)
    (hquiet : s.quiet) (hbusy : s.busy = false) (hhigh : s.txd = true) (bytes : List Byte) :
    ∃ u, steps (10 * bytes.length * s.cfg.bitPeriod) (s.beginSend kind bytes) = .next u ∧
      s.ReturnedAfter (10 * bytes.length * s.cfg.bitPeriod) u := by
  obtain ⟨hm, hr⟩ := (busy_eq_false s).mp hbusy
  cases bytes with
  | nil =>
    have hzero : 10 * ([] : List Byte).length * s.cfg.bitPeriod = 0 := by simp
    obtain ⟨hcfg, hcyccnt, htxd, hseq, hrender, htick, _, hinputs, _⟩ := release_spec kind s.enterMasked
    rw [hzero]
    refine ⟨s.enterMasked.release kind, rfl, ?_⟩
    exact
      { idle := (busy_eq_false _).mpr ⟨hseq ▸ hm, hrender.trans hr⟩
        irqen := by simp [release_irqen, hkind]
        high := htxd.trans hhigh
        cfg := hcfg
        cyccnt := by rw [waited_zero hcounter]; exact hcyccnt
        tick := htick
        inputs := hinputs }
  | cons b rest =>
    have h := (openRun_sending hkind rest hcounter hquiet hr).loadByte b rest
    exact ⟨_, steps_message h rfl, { sent_returnedAfter h.not_delay h.not_rendering _ with }⟩

/-- The second half of R118's closed form: from the end of the last slot on unit TX is idle. -/
theorem steps_beginSend_over (hkind : kind ≠ .delay) (hcounter : s.cyccnt < 2 ^ s.cfg.cntW) (hquiet : s.quiet)
    (hbusy : s.busy = false) (hhigh : s.txd = true) (bytes : List Byte) (d : Nat) :
    ∃ u, steps (10 * bytes.length * s.cfg.bitPeriod + d) (s.beginSend kind bytes) = .next u ∧
      u.busy = false ∧ u.irqen = s.irqen ∧ u.txd = true ∧
      u.cyccnt = (s.cyccnt + 10 * bytes.length * s.cfg.bitPeriod + d) % 2 ^ s.cfg.cntW ∧
      u.tick = s.tick + 10 * bytes.length * s.cfg.bitPeriod + d := by
  obtain ⟨v, hv, hret⟩ := steps_beginSend_returned hkind hcounter hquiet hbusy hhigh bytes
  have hcounter' : v.cyccnt < 2 ^ v.cfg.cntW := by
    rw [hret.cyccnt, hret.cfg]
    exact waited_cyccnt_lt s _
  have hquiet' : v.quiet := by
    rw [State.quiet, hret.inputs]
    exact quiet_waited _ hquiet
  refine ⟨v.waited d, (steps_add _ d _ _ hv).trans (steps_idle hret.idle hcounter' hquiet' d), hret.idle,
    hret.irqen, hret.high, ?_, ?_⟩
  · simp [State.waited, hret.cyccnt, hret.cfg]
  · simp [State.waited, hret.tick]

end

/-- Settles O24: the two halves of the closed form, for a SENDRAW that is requested. -/
theorem sendRawWaveform : Obligations.SendRawWaveform := by
  intro bytes s hbusy hhigh hcounter hquiet
  have hkind : Kind.sendRaw ≠ .delay := by decide
  obtain ⟨-, hr⟩ := (busy_eq_false s).mp hbusy
  exact ⟨_, exec_sendRaw_of_idle bytes hbusy,
    fun _ _ _ hj hk ht => steps_beginSend_slot hkind hcounter hquiet hr hj hk ht,
    steps_beginSend_over hkind hcounter hquiet hbusy hhigh bytes⟩

/-- The level of the pin `n` ticks after the invocation of SENDRAW (R118): that of the slot the tick is in, and 1
from the end of the last. -/
def messageLevel (bytes : List Byte) (period n : Nat) : Bit :=
  match bytes[n / period / 10]? with
  | some b => frameBit b (n / period % 10)
  | none => true

theorem levelAfter_of_steps {s u : State} {n : Nat} (h : steps n s = .next u) : s.levelAfter n = u.txd := by
  simp [State.levelAfter, h]

/-- The closed form of SENDRAW, read as the level at each tick (R118). -/
theorem levelAfter_sendRaw {bytes : List Byte} {s s0 : State} (hbusy : s.busy = false) (hhigh : s.txd = true)
    (hcounter : s.cyccnt < 2 ^ s.cfg.cntW) (hquiet : s.quiet) (hexec : exec (.sendRaw bytes) s = .next s0)
    (n : Nat) : s0.levelAfter n = messageLevel bytes s.cfg.bitPeriod n := by
  obtain ⟨s0', hexec', hslot, hover⟩ := sendRawWaveform bytes s hbusy hhigh hcounter hquiet
  obtain rfl : s0 = s0' := by simpa [hexec] using hexec'
  have hpos : 0 < s.cfg.bitPeriod := s.cfg.bitPeriod_pos
  by_cases hj : n / s.cfg.bitPeriod / 10 < bytes.length
  · obtain ⟨u, hu, hlevel, -⟩ := hslot _ (n / s.cfg.bitPeriod % 10) (n % s.cfg.bitPeriod) hj
      (Nat.mod_lt _ (by decide)) (Nat.mod_lt _ hpos)
    rw [Nat.div_add_mod, Nat.mul_comm, Nat.div_add_mod] at hu
    rw [levelAfter_of_steps hu, hlevel, messageLevel, List.getElem?_eq_getElem hj]
  · have hlen : 10 * bytes.length ≤ n / s.cfg.bitPeriod := by omega
    obtain ⟨d, hd⟩ := Nat.exists_eq_add_of_le ((Nat.le_div_iff_mul_le hpos).mp hlen)
    obtain ⟨u, hu, -, -, hlevel, -⟩ := hover d
    rw [← hd] at hu
    rw [levelAfter_of_steps hu, hlevel, messageLevel, List.getElem?_eq_none (Nat.le_of_not_lt hj)]

/-- Settles O26: the level at each tick is that of the message, which the counter does not enter. -/
theorem waveformIgnoresCounter : Obligations.WaveformIgnoresCounter := by
  intro bytes s c k s0 s1 hbusy hhigh hcounter hc hquiet h0 h1
  rw [levelAfter_sendRaw hbusy hhigh hcounter hquiet h0,
    levelAfter_sendRaw (s := { s with cyccnt := c }) hbusy hhigh hc hquiet h1]

/-- Settles O35: SENDBYTE of a running SENDRAW is a transmission at its first start slot, which after its frame
goes on with the next byte or returns. -/
theorem frameShape : Obligations.FrameShape := by
  intro b s hw hr hirq hhigh hdlen hcounter hquiet
  obtain ⟨hrun, hkind⟩ := (inFrame_iff_inWindow s).mpr hw
  have h : (s.loadByte b s.seq.rest).Sending :=
    { undisturbed := .inr ⟨hquiet, hirq⟩
      counter_lt := hcounter
      not_rendering := hr
      running := hrun
      not_delay := hkind
      dlen_eq := hdlen }
  refine ⟨_, exec_frame_of_inWindow b hw, fun k t hk ht => ?_, ?_⟩
  · obtain ⟨u, hu, hlevel, hmask, hbusy⟩ := steps_in_frame h hk ht
    exact ⟨u, hu, hlevel, hmask.trans hirq, hbusy⟩
  · cases hrest : s.seq.rest with
    | nil =>
      have hret := sent_returnedAfter h.not_delay hr (10 * s.cfg.bitPeriod)
      exact ⟨_, steps_frame_nil h hrest, hret.cyccnt, fun _ => ⟨hret.idle, hret.high, hret.irqen⟩, nofun⟩
    | cons c rest =>
      refine ⟨_, steps_frame_cons h hrest, rfl, nofun, ?_⟩
      rintro _ _ ⟨rfl, rfl⟩
      exact ⟨hw, hirq, frameBit_start c, rfl, rfl, rfl⟩

/-! ## SENDFMT from its invocation to its return (R120, R121) -/

/-- After `k` ticks of a rendering, with `r` left of it. -/
def State.rendered (k : Nat) (r : Rendering) (s : State) : State := { s.waited k with rendering := some r }

theorem rendered_rendered (j k : Nat) (r r' : Rendering) (s : State) :
    (s.rendered j r).rendered k r' = s.rendered (j + k) r' :=
  congrArg (fun u : State => { u with rendering := some r' }) (waited_waited j k s)

theorem rendered_zero {s : State} {r : Rendering} (hcounter : s.cyccnt < 2 ^ s.cfg.cntW)
    (hr : s.rendering = some r) : s.rendered 0 r = s := by
  rw [State.rendered, waited_zero hcounter, ← hr]

/-- The write step of SENDFMT ends the rendering, whatever was left of it. -/
theorem sendText_rendered (text : List Byte) (j k : Nat) (r : Rendering) (s : State) :
    ((s.rendered j r).waited k).sendText text = (s.waited (j + k)).sendText text := by
  rw [← waited_waited]
  rfl

/-- From `s` on SENDFMT renders for `d` ticks and then writes and sends the text of `r`. -/
structure State.RendersFor (s : State) (r : Rendering) (d : Nat) : Prop where
  rendering : ∀ i, i < d → ∃ r', steps i s = .next (s.rendered i r')
  sending : steps d s = .next ((s.waited d).sendText r.text)

/-- One more tick of rendering comes before. -/
theorem State.RendersFor.of_step {s : State} {r r' : Rendering} {d : Nat} (hr : s.rendering = some r)
    (hcounter : s.cyccnt < 2 ^ s.cfg.cntW) (hstep : step s = .next (s.rendered 1 r'))
    (h : (s.rendered 1 r').RendersFor r' d) (htext : r'.text = r.text) :
    s.RendersFor r (d + 1) where
  rendering i hi := by
    cases i with
    | zero => exact ⟨r, by rw [rendered_zero hcounter hr, steps]⟩
    | succ i =>
      obtain ⟨r'', hi'⟩ := h.rendering i (by omega)
      exact ⟨r'', by rw [steps_succ_of_step hstep, hi', rendered_rendered, Nat.add_comm]⟩
  sending := by rw [steps_succ_of_step hstep, h.sending, sendText_rendered, htext, Nat.add_comm]

/-- One tick of a rendering in a quiet world: it is taken, or the last, or counted (R121, R176). -/
theorem step_of_rendering {s : State} {r : Rendering} (hr : s.rendering = some r)
    (hcounter : s.cyccnt < 2 ^ s.cfg.cntW) (hquiet : s.quiet) :
    (¬ s.undisturbed ∧ s.inputs ≠ [] ∧ step s = .next (s.rendered 1 r)) ∨
      (r.left ≤ 1 ∧ step s = .next ((s.waited 1).sendText r.text)) ∨
      (1 < r.left ∧ step s = .next (s.rendered 1 ⟨r.text, r.left - 1⟩)) := by
  rcases step_of_quiet hquiet with h | ⟨hu, hne, h⟩ <;> rw [dropInput_countTick hcounter] at h
  · rcases Nat.lt_or_ge 1 r.left with hleft | hleft
    · exact .inr (.inr ⟨hleft, h.trans (congrArg _ (act_rendering_counts (s := s.waited 1) hr hleft))⟩)
    · exact .inr (.inl ⟨hleft, h.trans (congrArg _ (act_rendering_ends (s := s.waited 1) hr hleft))⟩)
  · exact .inl ⟨hu, hne, by rw [h, State.rendered, ← hr]; rfl⟩

/-- A rendering ends in a quiet world: each tick takes one of its own or one of the finitely many inputs that
can take a tick from it. -/
theorem exists_rendersFor {s : State} {r : Rendering} (hr : s.rendering = some r) (hleft : 1 ≤ r.left)
    (hcounter : s.cyccnt < 2 ^ s.cfg.cntW) (hquiet : s.quiet) :
    ∃ d, r.left ≤ d ∧ (s.undisturbed → d = r.left) ∧ s.RendersFor r d := by
  induction hm : s.inputs.length + r.left using Nat.strong_induction_on generalizing s r with
  | _ m ih =>
    have hcounter' (r' : Rendering) : (s.rendered 1 r').cyccnt < 2 ^ (s.rendered 1 r').cfg.cntW :=
      waited_cyccnt_lt s 1
    have hquiet' (r' : Rendering) : (s.rendered 1 r').quiet := quiet_waited 1 hquiet
    have hlen (r' : Rendering) : (s.rendered 1 r').inputs.length = s.inputs.length - 1 := List.length_drop
    rcases step_of_rendering hr hcounter hquiet with ⟨hu, hne, hstep⟩ | ⟨hlast, hstep⟩ | ⟨hmore, hstep⟩
    case inl =>
      have hpos := List.length_pos_of_ne_nil hne
      obtain ⟨d, hd, -, h⟩ := ih _ (by rw [hlen]; omega) (s := s.rendered 1 r) rfl hleft (hcounter' r) (hquiet' r) rfl
      exact ⟨d + 1, by omega, fun h => absurd h hu, h.of_step hr hcounter hstep rfl⟩
    case inr.inl =>
      refine ⟨1, hlast, fun _ => by omega, ⟨fun i hi => ⟨r, ?_⟩, ?_⟩⟩
      · obtain rfl : i = 0 := by omega
        rw [rendered_zero hcounter hr, steps]
      · rw [steps_succ_of_step hstep, steps]
    case inr.inr =>
      obtain ⟨d, hd, hexact, h⟩ := ih _ (by rw [hlen]; simp only; omega) (s := s.rendered 1 ⟨r.text, r.left - 1⟩)
        rfl (show 1 ≤ r.left - 1 by omega) (hcounter' _) (hquiet' _) rfl
      have hd' : r.left - 1 ≤ d := hd
      refine ⟨d + 1, by omega, fun hu => ?_, h.of_step hr hcounter hstep rfl⟩
      have hdone : d = r.left - 1 := hexact (undisturbed_waited 1 hu)
      omega

/-- The rendering of a SENDFMT takes at least the ticks drawn for it, and exactly those if none is taken. -/
theorem exists_steps_beginRender {s : State} (text : List Byte) (n : Nat) (hcounter : s.cyccnt < 2 ^ s.cfg.cntW)
    (hquiet : s.quiet) :
    ∃ d, n ≤ d ∧ (n = 0 → d = 0) ∧ (s.undisturbed → d = n) ∧
      (∀ i, i < d → ∃ r, steps i (s.beginRender text n) = .next (s.rendered i r)) ∧
      steps d (s.beginRender text n) = .next ((s.waited d).sendText text) := by
  rcases beginRender_cases text n s with ⟨rfl, hb⟩ | ⟨hn, hb⟩ <;> rw [hb]
  · exact ⟨0, le_rfl, fun _ => rfl, fun _ => rfl, nofun, by rw [waited_zero hcounter, steps]⟩
  · obtain ⟨d, hd, hexact, h⟩ := exists_rendersFor (s := { s with rendering := some ⟨text, n⟩ }) rfl
      (Nat.one_le_iff_ne_zero.mpr hn) hcounter hquiet
    exact ⟨d, hd, fun h0 => absurd h0 hn, hexact, h.rendering, h.sending⟩

/-- The write step of SENDFMT: rendering is over and the buffer filled (R122). -/
def State.writeText (text : List Byte) (s : State) : State :=
  { s with rendering := none, fmtbuf := fillBuf text s.fmtbuf }

/-- Once it is written SENDFMT sends the cut text up to its first zero byte (R124, R126). -/
theorem sendText_eq_beginSend (text : List Byte) (s : State) :
    s.sendText text = (s.writeText text).beginSend .sendFmt ((text.take 127).takeWhile (· ≠ 0)) := by
  rw [← cstr_fillBuf text s.fmtbuf]
  rfl

/-- Settles O33: the rendering, then the closed form of SENDRAW on the bytes before the first zero of the buffer. -/
theorem sendFmtWaveform : Obligations.SendFmtWaveform := by
  rintro format args s _ hbusy hhigh hcounter hquiet rfl
  have hkind : Kind.sendFmt ≠ .delay := by decide
  obtain ⟨hm, -⟩ := (busy_eq_false s).mp hbusy
  have hexec := exec_sendFmt_of_idle format args hbusy
  generalize Config.render format args = text at hexec ⊢
  obtain ⟨d, hd, hzero, hexact, hrender, hsend⟩ :=
    exists_steps_beginRender (s := s.takeRenderTicks) text (s.renderTicks.headD 0) hcounter hquiet
  rw [sendText_eq_beginSend] at hsend
  have hcounter' := waited_cyccnt_lt s.takeRenderTicks d
  have hquiet' : (s.takeRenderTicks.waited d).quiet := quiet_waited d hquiet
  have hbusy' : ((s.takeRenderTicks.waited d).writeText text).busy = false := (busy_eq_false _).mpr ⟨hm, rfl⟩
  refine ⟨Nat.mul_le_mul_right _ (Nat.mul_le_mul_left 10 (length_cut_le text)), _, d, hexec, hd, hzero, hexact,
    fun i hi => ?_, fun j k t hj hk ht => ?_, fun e => ?_⟩
  · obtain ⟨r, hi'⟩ := hrender i hi
    exact ⟨_, hi', busy_of_rendering rfl, hhigh, rfl⟩
  · rw [steps_add d _ _ _ hsend]
    exact steps_beginSend_slot (s := (s.takeRenderTicks.waited d).writeText text) hkind hcounter' hquiet' rfl hj hk ht
  · obtain ⟨u, hu, hidle, hirq, htxd, -⟩ := steps_beginSend_over
      (s := (s.takeRenderTicks.waited d).writeText text) hkind hcounter' hquiet' hbusy' hhigh _ e
    exact ⟨u, (steps_add d _ _ _ hsend).trans hu, hidle, hirq, htxd⟩

end Sys2Proof.Machine

/-! The proofs of the family `41_decoder.md`: binary32 patterns and the numbers they stand for (R13), rounding to
nearest even and the operations of the default `F32` (R150), the solver and its clamp (R151, R152, R153), DECODE and
its class rows (R140 to R148), and RECONSTRUCT (R154 to R159). -/

namespace Sys2Proof.Machine

/-! ## The fields of a binary32 pattern (R13) -/

theorem signed_toNat (s : Bit) {mag : Nat} (h : mag < 2 ^ 31) :
    (signed s mag).toNat = s.toNat * 2 ^ 31 + mag := by
  rw [signed, BitVec.toNat_append, BitVec.toNat_ofNat, Nat.mod_eq_of_lt h, ← Nat.shiftLeft_add_eq_or_of_lt h,
    Nat.shiftLeft_eq, BitVec.toNat_ofBool]

theorem f32Sign_toNat (a : F32) : (f32Sign a).toNat = a.toNat / 2 ^ 31 := by
  have hlt := a.isLt
  rw [f32Sign, BitVec.getLsbD, Nat.toNat_testBit]
  omega

theorem f32Mag_eq (a : F32) : f32Mag a = a.toNat % 2 ^ 31 := by
  rw [f32Mag, BitVec.extractLsb'_toNat, Nat.shiftRight_zero]

theorem f32Mag_lt (a : F32) : f32Mag a < 2 ^ 31 := by
  rw [f32Mag_eq]
  exact Nat.mod_lt _ (by decide)

theorem f32Exp_eq (a : F32) : f32Exp a = f32Mag a / 2 ^ 23 := by
  rw [f32Exp, f32Mag_eq, BitVec.extractLsb'_toNat, Nat.shiftRight_eq_div_pow]
  omega

theorem f32Frac_eq (a : F32) : f32Frac a = f32Mag a % 2 ^ 23 := by
  rw [f32Frac, f32Mag_eq, BitVec.extractLsb'_toNat, Nat.shiftRight_zero]
  omega

theorem f32_toNat (a : F32) : a.toNat = (f32Sign a).toNat * 2 ^ 31 + f32Mag a := by
  rw [f32Sign_toNat, f32Mag_eq]
  omega

/-- A pattern is put together again from its sign and its magnitude. -/
theorem signed_fields (a : F32) : signed (f32Sign a) (f32Mag a) = a :=
  BitVec.eq_of_toNat_eq (by rw [signed_toNat _ (f32Mag_lt a), ← f32_toNat])

@[simp] theorem f32Sign_signed (s : Bit) (mag : Nat) : f32Sign (signed s mag) = s := by
  have h := BitVec.getLsbD_append (x := BitVec.ofBool s) (y := BitVec.ofNat 31 mag) (i := 31)
  rw [f32Sign, signed, h]
  cases s <;> rfl

theorem f32Mag_signed (s : Bit) {mag : Nat} (h : mag < 2 ^ 31) : f32Mag (signed s mag) = mag := by
  rw [f32Mag_eq, signed_toNat s h]
  omega

/-- Bit 0 of a pattern is that of its magnitude. -/
theorem getLsbD_zero_signed (s : Bit) {mag : Nat} (h : mag < 2 ^ 31) :
    (signed s mag).getLsbD 0 = decide (mag % 2 = 1) := by
  rw [BitVec.getLsbD, signed_toNat s h, Nat.testBit_zero]
  congr 1
  simp only [eq_iff_iff]
  omega

/-- Negation changes the sign and nothing else. -/
theorem f32Neg_signed (s : Bit) (mag : Nat) : f32Neg (signed s mag) = signed (!s) mag := by
  show (BitVec.ofBool s ++ BitVec.ofNat 31 mag) ^^^ (1#1 ++ 0#31) = BitVec.ofBool (!s) ++ BitVec.ofNat 31 mag
  rw [BitVec.xor_append, BitVec.xor_zero]
  cases s <;> rfl

theorem isNaN_iff (a : F32) : isNaN a = true ↔ 0x7F800000 < f32Mag a := by
  have hlt := f32Mag_lt a
  simp only [isNaN, f32Exp_eq, f32Frac_eq, Bool.and_eq_true, beq_iff_eq, bne_iff_ne]
  omega

theorem f32Neg_eq (a : F32) : f32Neg a = signed (!f32Sign a) (f32Mag a) := by
  rw [← f32Neg_signed, signed_fields]

@[simp] theorem f32Sign_neg (a : F32) : f32Sign (f32Neg a) = !f32Sign a := by rw [f32Neg_eq, f32Sign_signed]

@[simp] theorem f32Mag_neg (a : F32) : f32Mag (f32Neg a) = f32Mag a := by
  rw [f32Neg_eq, f32Mag_signed _ (f32Mag_lt a)]

@[simp] theorem isNaN_neg (a : F32) : isNaN (f32Neg a) = isNaN a := by
  rw [Bool.eq_iff_iff, isNaN_iff, isNaN_iff, f32Mag_neg]

theorem isNaN_eq_false (a : F32) : isNaN a = false ↔ f32Mag a ≤ 0x7F800000 := by
  rw [← Bool.not_eq_true, isNaN_iff, Nat.not_lt]

/-- Whatever its free bits, the pattern of a NaN is one (R146, R150). -/
@[simp] theorem isNaN_nanPattern (bits : BitVec 24) : isNaN (nanPattern bits) = true := by
  have h (t : BitVec 1) (frac : BitVec 23) (hfrac : frac ≠ 0) : isNaN (t ++ 0xFF#8 ++ frac) = true := by
    have hpos : frac.toNat ≠ 0 := fun h0 => hfrac (BitVec.eq_of_toNat_eq h0)
    have hlt := frac.isLt
    rw [isNaN_iff, f32Mag_eq, BitVec.toNat_append, BitVec.toNat_append, ← Nat.shiftLeft_add_eq_or_of_lt hlt,
      ← Nat.shiftLeft_add_eq_or_of_lt (0xFF#8).isLt, Nat.shiftLeft_eq, Nat.shiftLeft_eq]
    simp only [BitVec.toNat_ofNat]
    omega
  refine h _ _ ?_
  split
  · decide
  · assumption

/-! ## What a pattern is read as (R13) -/

/-- A finite magnitude as its significand `m` and its exponent `E` above that of the least binary32: it stands
for `m * 2^(E - 149)`. -/
structure ReadsAs (mag E m : Nat) : Prop where
  mag_eq : mag = E * 2 ^ 23 + m
  mag_lt : mag < 0x7F800000
  sig_lt : m < 2 ^ 24
  normal : 0 < E → 2 ^ 23 ≤ m

theorem exists_readsAs {mag : Nat} (h : mag < 0x7F800000) : ∃ E m, ReadsAs mag E m :=
  ⟨mag / 2 ^ 23 - 1, mag - (mag / 2 ^ 23 - 1) * 2 ^ 23, by omega, h, by omega, by omega⟩

theorem unpack_of_readsAs {a : F32} {E m : Nat} (h : ReadsAs (f32Mag a) E m) :
    unpack a = .fin (f32Sign a) m ((E : Int) - 149) := by
  obtain ⟨hmag, hfin, hsig, hnormal⟩ := h
  have hnan : isNaN a = false := (isNaN_eq_false a).mpr hfin.le
  have hinf : f32Exp a ≠ 255 := by rw [f32Exp_eq]; omega
  simp only [unpack, hnan, hinf, Bool.false_eq_true, if_false]
  split
  · next hexp =>
    rw [f32Exp_eq] at hexp
    rw [f32Frac_eq, show f32Mag a % 2 ^ 23 = m by omega, show E = 0 by omega]
    rfl
  · next hexp =>
    rw [f32Exp_eq] at hexp
    rw [f32Frac_eq, f32Exp_eq, show 2 ^ 23 + f32Mag a % 2 ^ 23 = m by omega,
      show ((f32Mag a / 2 ^ 23 : Nat) : Int) - 150 = (E : Int) - 149 by omega]

theorem unpack_of_isNaN {a : F32} (h : isNaN a = true) : unpack a = .nan := by
  rw [unpack, if_pos h]

theorem unpack_of_mag_inf {a : F32} (h : f32Mag a = 0x7F800000) : unpack a = .inf (f32Sign a) := by
  have hnan : ¬ isNaN a = true := by rw [isNaN_iff, h]; decide
  have hexp : f32Exp a = 255 := by norm_num [f32Exp_eq, h]
  rw [unpack, if_neg hnan, if_pos hexp]

/-- The three things a pattern can be: a NaN, an infinity, a finite value. -/
theorem unpack_cases (a : F32) :
    (isNaN a = true ∧ unpack a = .nan) ∨ (f32Mag a = 0x7F800000 ∧ unpack a = .inf (f32Sign a)) ∨
      (∃ E m, ReadsAs (f32Mag a) E m ∧ unpack a = .fin (f32Sign a) m ((E : Int) - 149)) := by
  rcases lt_trichotomy (f32Mag a) 0x7F800000 with hlt | heq | hgt
  · obtain ⟨E, m, h⟩ := exists_readsAs hlt
    exact .inr (.inr ⟨E, m, h, unpack_of_readsAs h⟩)
  · exact .inr (.inl ⟨heq, unpack_of_mag_inf heq⟩)
  · have hnan := (isNaN_iff a).mpr hgt
    exact .inl ⟨hnan, unpack_of_isNaN hnan⟩

/-! ## Finite values and their order (R13) -/

theorem f32Value_of_readsAs {a : F32} {E m : Nat} (h : ReadsAs (f32Mag a) E m) :
    f32Value a = some (signedInt (f32Sign a) m * (2 : Rat) ^ ((E : Int) - 149)) := by
  rw [f32Value, unpack_of_readsAs h]

/-- What has a value is finite, and the value is that of its significand and exponent. -/
theorem exists_readsAs_of_f32Value {a : F32} {p : Rat} (h : f32Value a = some p) :
    ∃ E m, ReadsAs (f32Mag a) E m ∧ p = signedInt (f32Sign a) m * (2 : Rat) ^ ((E : Int) - 149) := by
  rcases unpack_cases a with ⟨_, hu⟩ | ⟨_, hu⟩ | ⟨E, m, hr, _⟩
  · simp [f32Value, hu] at h
  · simp [f32Value, hu] at h
  · rw [f32Value_of_readsAs hr, Option.some.injEq] at h
    exact ⟨E, m, hr, h.symm⟩

theorem signedInt_not (s : Bit) (m : Nat) : signedInt (!s) m = -signedInt s m := by
  cases s <;> simp [signedInt]

theorem signedInt_xor (s t : Bit) (m n : Nat) : signedInt (s ^^ t) (m * n) = signedInt s m * signedInt t n := by
  cases s <;> cases t <;> simp [signedInt]

theorem signedInt_mul_natCast (s : Bit) (m n : Nat) : signedInt s (m * n) = signedInt s m * n := by
  cases s <;> simp [signedInt]

theorem natAbs_signedInt (s : Bit) (m : Nat) : (signedInt s m).natAbs = m := by
  cases s <;> simp [signedInt]

/-- A number is put together again from its sign and its size. -/
theorem signedInt_decide_neg (i : Int) : signedInt (decide (i < 0)) i.natAbs = i := by
  by_cases h : i < 0 <;> simp only [signedInt, h, decide_true, decide_false, if_true, Bool.false_eq_true, if_false] <;>
    omega

theorem f32Value_neg {a : F32} {p : Rat} (h : f32Value a = some p) : f32Value (f32Neg a) = some (-p) := by
  obtain ⟨E, m, hr, rfl⟩ := exists_readsAs_of_f32Value h
  rw [← f32Mag_neg] at hr
  rw [f32Value_of_readsAs hr, f32Sign_neg, signedInt_not, Int.cast_neg, neg_mul]

/-- The value of a pattern in units of the least binary32. -/
theorem signedInt_mul_zpow (s : Bit) (E m : Nat) :
    (signedInt s m : Rat) * 2 ^ ((E : Int) - 149) = signedInt s (m * 2 ^ E) * (2 : Rat) ^ (-149 : Int) := by
  rw [signedInt_mul_natCast, sub_eq_add_neg, zpow_add₀ two_ne_zero, zpow_natCast]
  push_cast
  ring

theorem ReadsAs.unique {mag E E' m m' : Nat} (h : ReadsAs mag E m) (h' : ReadsAs mag E' m') : E = E' ∧ m = m' := by
  obtain ⟨hmag, -, hsig, hnormal⟩ := h
  obtain ⟨hmag', -, hsig', hnormal'⟩ := h'
  omega

theorem ReadsAs.scaled_lt {mag mag' E E' m m' : Nat} (h : ReadsAs mag E m) (h' : ReadsAs mag' E' m')
    (hlt : mag < mag') : m * 2 ^ E < m' * 2 ^ E' := by
  obtain ⟨hmag, -, hsig, hnormal⟩ := h
  obtain ⟨hmag', -, hsig', hnormal'⟩ := h'
  rcases lt_trichotomy E E' with hE | rfl | hE
  · calc m * 2 ^ E < 2 ^ 24 * 2 ^ E := Nat.mul_lt_mul_of_pos_right hsig (Nat.two_pow_pos E)
      _ = 2 ^ 23 * 2 ^ (E + 1) := by ring
      _ ≤ m' * 2 ^ E' := Nat.mul_le_mul (hnormal' (by omega)) (Nat.pow_le_pow_right two_pos hE)
  · exact Nat.mul_lt_mul_of_pos_right (by omega) (Nat.two_pow_pos E)
  · have := hnormal (by omega)
    omega

/-- Finite magnitudes are in the order of the numbers they stand for. -/
theorem ReadsAs.scaled_lt_iff {mag mag' E E' m m' : Nat} (h : ReadsAs mag E m) (h' : ReadsAs mag' E' m') :
    m * 2 ^ E < m' * 2 ^ E' ↔ mag < mag' := by
  refine ⟨fun hlt => ?_, h.scaled_lt h'⟩
  rcases lt_trichotomy mag mag' with hmag | rfl | hmag
  · exact hmag
  · obtain ⟨rfl, rfl⟩ := h.unique h'
    exact absurd hlt (lt_irrefl _)
  · exact absurd hlt (h'.scaled_lt h hmag).not_gt

/-- Signed numbers compare alike when their sizes do, and are zero alike. -/
theorem signedInt_lt_signedInt_iff {s t : Bit} {m n m' n' : Nat} (hlt : m < n ↔ m' < n') (hgt : n < m ↔ n' < m')
    (hm : m = 0 ↔ m' = 0) (hn : n = 0 ↔ n' = 0) :
    signedInt s m < signedInt t n ↔ signedInt s m' < signedInt t n' := by
  cases s <;> cases t <;> simp only [signedInt, if_true, if_false, Bool.false_eq_true] <;> omega

/-- The order key of a finite pattern is in the order of its value (R150). -/
theorem orderKey_lt_iff {a b : F32} {p q : Rat} (ha : f32Value a = some p) (hb : f32Value b = some q) :
    orderKey a < orderKey b ↔ p < q := by
  obtain ⟨E, m, hr, rfl⟩ := exists_readsAs_of_f32Value ha
  obtain ⟨E', m', hr', rfl⟩ := exists_readsAs_of_f32Value hb
  have hzero : ReadsAs 0 0 0 := ⟨rfl, by decide, by decide, nofun⟩
  have hpos := hzero.scaled_lt_iff hr
  have hpos' := hzero.scaled_lt_iff hr'
  rw [signedInt_mul_zpow, signedInt_mul_zpow, mul_lt_mul_iff_left₀ (by positivity), Int.cast_lt, orderKey, orderKey]
  exact signedInt_lt_signedInt_iff (hr.scaled_lt_iff hr').symm (hr'.scaled_lt_iff hr).symm (by omega) (by omega)

/-- On finite values less-than is that of the values (R150). -/
theorem f32Lt_iff_of_f32Value {a b : F32} {p q : Rat} (ha : f32Value a = some p) (hb : f32Value b = some q) :
    f32Lt a b = true ↔ p < q := by
  have hnan {a : F32} {p : Rat} (ha : f32Value a = some p) : isNaN a = false := by
    obtain ⟨E, m, hr, -⟩ := exists_readsAs_of_f32Value ha
    exact (isNaN_eq_false a).mpr hr.mag_lt.le
  simp [f32Lt, hnan ha, hnan hb, orderKey_lt_iff ha hb]

/-! ## Rounding to nearest, ties to even (R150) -/

/-- `n` is a natural number nearest to `x`, and even where another is as near. -/
structure NearestEven (x : ℝ) (n : Nat) : Prop where
  close : |x - n| ≤ 1 / 2
  tie : |x - n| = 1 / 2 → n % 2 = 0

/-- No integer is nearer, and one as near is the same or leaves an even number. -/
theorem NearestEven.no_nearer {x : ℝ} {n : Nat} (h : NearestEven x n) (i : Int) :
    |x - n| ≤ |x - i| ∧ (|x - n| = |x - i| → (n : ℝ) = i ∨ n % 2 = 0) := by
  rcases eq_or_ne (n : Int) i with rfl | hne
  · simp
  · have hdist : (1 : ℝ) ≤ |(n : ℝ) - i| := by
      have : 1 ≤ |(n : Int) - i| := Int.one_le_abs (sub_ne_zero.mpr hne)
      exact_mod_cast this
    have htri := abs_sub_le (n : ℝ) x i
    rw [abs_sub_comm (n : ℝ) x] at htri
    have hclose := h.close
    exact ⟨by linarith, fun heq => .inr (h.tie (by linarith))⟩

theorem rneShift_spec (m k : Nat) :
    2 * (rneShift m k * 2 ^ k) ≤ 2 * m + 2 ^ k ∧ 2 * m ≤ 2 * (rneShift m k * 2 ^ k) + 2 ^ k ∧
    ((2 * (rneShift m k * 2 ^ k) = 2 * m + 2 ^ k ∨ 2 * m = 2 * (rneShift m k * 2 ^ k) + 2 ^ k) →
      rneShift m k % 2 = 0) := by
  have hr := Nat.mod_lt m (Nat.two_pow_pos k)
  have hm := Nat.div_add_mod' m (2 ^ k)
  unfold rneShift
  generalize 2 ^ k = d at *
  generalize m / d = q at *
  generalize m % d = r at *
  subst hm
  simp only
  split
  · rw [Nat.add_mul]
    omega
  · omega

theorem rneShift_nearestEven (m k : Nat) : NearestEven (m / 2 ^ k) (rneShift m k) := by
  obtain ⟨hle, hge, htie⟩ := rneShift_spec m k
  have hk : (0 : ℝ) < 2 ^ k := by positivity
  have hle' : (2 : ℝ) * (rneShift m k * 2 ^ k) ≤ 2 * m + 2 ^ k := by exact_mod_cast hle
  have hge' : (2 : ℝ) * m ≤ 2 * (rneShift m k * 2 ^ k) + 2 ^ k := by exact_mod_cast hge
  have hx : (m : ℝ) / 2 ^ k * 2 ^ k = m := div_mul_cancel₀ _ hk.ne'
  constructor
  · rw [abs_le]
    constructor <;> nlinarith
  · intro h
    apply htie
    rcases (abs_eq (by norm_num)).mp h with h | h
    · right
      have : (2 : ℝ) * m = 2 * (rneShift m k * 2 ^ k) + 2 ^ k := by rw [← hx, sub_eq_iff_eq_add.mp h]; ring
      exact_mod_cast this
    · left
      have : (2 : ℝ) * (rneShift m k * 2 ^ k) = 2 * m + 2 ^ k := by rw [← hx, sub_eq_iff_eq_add.mp h]; ring
      exact_mod_cast this

theorem rneScale_nearestEven (m : Nat) (d : Int) : NearestEven (m * 2 ^ d) (rneScale m d) := by
  unfold rneScale
  split
  · next h =>
    have : (m : ℝ) * 2 ^ d = ((m * 2 ^ d.toNat : Nat) : ℝ) := by
      rw [Nat.cast_mul, Nat.cast_pow, Nat.cast_ofNat, ← zpow_natCast, Int.toNat_of_nonneg h]
    constructor <;> norm_num [this]
  · next h =>
    have : (m : ℝ) * 2 ^ d = m / 2 ^ (-d).toNat := by
      rw [← zpow_natCast, Int.toNat_of_nonneg (by omega), zpow_neg, div_inv_eq_mul]
    rw [this]
    exact rneShift_nearestEven m _

/-! ## The integer root -/

theorem isqrtBits_spec (k n r : Nat) (hle : r * r ≤ n) (hlt : n < (r + 2 ^ k) * (r + 2 ^ k)) :
    isqrtBits k n r * isqrtBits k n r ≤ n ∧ n < (isqrtBits k n r + 1) * (isqrtBits k n r + 1) := by
  induction k generalizing r with
  | zero => exact ⟨hle, hlt⟩
  | succ k ih =>
    rw [isqrtBits]
    split
    · next h => exact ih _ h (by rwa [Nat.add_assoc, ← Nat.two_mul, ← Nat.pow_succ'])
    · next h => exact ih _ hle (Nat.lt_of_not_le h)

theorem isqrt_spec {n : Nat} (h : n < 2 ^ 80) : isqrt n * isqrt n ≤ n ∧ n < (isqrt n + 1) * (isqrt n + 1) :=
  isqrtBits_spec 40 n 0 (Nat.zero_le n) (by rw [Nat.zero_add, ← Nat.pow_add]; exact h)

/-! ## Correct rounding of a real number (R150) -/

theorem f32Value_zero (s : Bit) : f32Value (f32Zero s) = some 0 := by
  have h : ReadsAs (f32Mag (f32Zero s)) 0 0 := by
    rw [f32Zero, f32Mag_signed s (by decide)]
    exact ⟨rfl, by decide, by decide, nofun⟩
  simp [f32Value_of_readsAs h, signedInt]

/-- Zero is rounded to a zero of either sign. -/
theorem correctlyRounded_zero (s : Bit) : CorrectlyRounded 0 (f32Zero s) where
  nearest _ := by
    refine ⟨0, f32Value_zero s, fun b r _ => ?_⟩
    rw [Rat.cast_zero, sub_zero, abs_zero, zero_sub, abs_neg]
    exact ⟨abs_nonneg _, fun h => .inl (by exact_mod_cast (abs_eq_zero.mp h.symm).symm)⟩
  too_large h := absurd h (by norm_num [f32Overflow])
  too_small h := absurd h (by norm_num [f32Overflow])
  sign_pos h := absurd h (lt_irrefl _)
  sign_neg h := absurd h (lt_irrefl _)

theorem getLsbD_zero_neg (a : F32) : (f32Neg a).getLsbD 0 = a.getLsbD 0 := by
  rw [f32Neg_eq, getLsbD_zero_signed _ (f32Mag_lt a), ← getLsbD_zero_signed (f32Sign a) (f32Mag_lt a), signed_fields]

/-- Rounding to nearest even has no preferred sign. -/
theorem CorrectlyRounded.neg {v : ℝ} {a : F32} (h : CorrectlyRounded v a) : CorrectlyRounded (-v) (f32Neg a) where
  nearest hv := by
    obtain ⟨q, hq, hnear⟩ := h.nearest (by rwa [abs_neg] at hv)
    have hdist (r : Rat) : |-v - ((-r : Rat) : ℝ)| = |v - r| := by
      rw [Rat.cast_neg, sub_neg_eq_add, neg_add_eq_sub, abs_sub_comm]
    refine ⟨-q, f32Value_neg hq, fun b r hr => ?_⟩
    have hb := hnear (f32Neg b) (-r) (f32Value_neg hr)
    rw [← hdist q, ← hdist (-r), neg_neg] at hb
    rwa [getLsbD_zero_neg, neg_eq_iff_eq_neg]
  too_large hv := by rw [h.too_small (by linarith), f32Inf, f32Neg_signed]; rfl
  too_small hv := by rw [h.too_large (by linarith), f32Inf, f32Neg_signed]; rfl
  sign_pos hv := by rw [f32Sign_neg, h.sign_neg (by linarith)]; rfl
  sign_neg hv := by rw [f32Sign_neg, h.sign_pos (by linarith)]; rfl

/-- A significand rounded up to `2^24` carries into the exponent and stands for the same value. -/
theorem f32Value_signed (s : Bit) {E n : Nat} (hn : n ≤ 2 ^ 24) (hnormal : 0 < E → 2 ^ 23 ≤ n)
    (hfin : E * 2 ^ 23 + n < 0x7F800000) :
    f32Value (signed s (E * 2 ^ 23 + n)) = some (signedInt s n * (2 : Rat) ^ ((E : Int) - 149)) := by
  have hmag := f32Mag_signed s (hfin.trans (by decide))
  rcases hn.lt_or_eq with hlt | rfl
  · have hr : ReadsAs (f32Mag (signed s (E * 2 ^ 23 + n))) E n := ⟨hmag, by rwa [hmag], hlt, hnormal⟩
    rw [f32Value_of_readsAs hr, f32Sign_signed]
  · have hr : ReadsAs (f32Mag (signed s (E * 2 ^ 23 + 2 ^ 24))) (E + 1) (2 ^ 23) :=
      ⟨hmag.trans (by ring), by rwa [hmag], by decide, fun _ => le_refl _⟩
    rw [f32Value_of_readsAs hr, f32Sign_signed, signedInt_mul_zpow, signedInt_mul_zpow, pow_succ' 2 E, ← mul_assoc,
      ← pow_succ]

/-- A finite value is a multiple of the last place in use, or below the numbers that have it. -/
theorem f32Value_multiple_or_small {b : F32} {r : Rat} (h : f32Value b = some r) (E : Nat) :
    (∃ i : Int, (r : ℝ) = i * 2 ^ ((E : Int) - 149)) ∨ (0 < E ∧ |(r : ℝ)| < 2 ^ 23 * 2 ^ ((E : Int) - 149)) := by
  obtain ⟨F, m, ⟨-, -, hsig, -⟩, rfl⟩ := exists_readsAs_of_f32Value h
  rcases Nat.lt_or_ge F E with hlt | hge
  · refine .inr ⟨by omega, ?_⟩
    have hm : |(signedInt (f32Sign b) m : ℝ)| < 2 ^ 24 := by
      have : |signedInt (f32Sign b) m| < 2 ^ 24 := by rw [Int.abs_eq_natAbs, natAbs_signedInt]; exact_mod_cast hsig
      exact_mod_cast this
    push_cast
    rw [abs_mul, abs_of_pos (a := (2 : ℝ) ^ ((F : Int) - 149)) (by positivity)]
    calc |(signedInt (f32Sign b) m : ℝ)| * 2 ^ ((F : Int) - 149) < 2 ^ 24 * 2 ^ ((F : Int) - 149) := by gcongr
      _ = 2 ^ 23 * 2 ^ ((F : Int) - 149 + 1) := by rw [zpow_add_one₀ two_ne_zero]; ring
      _ ≤ 2 ^ 23 * 2 ^ ((E : Int) - 149) := by gcongr <;> [norm_num; omega]
  · refine .inl ⟨signedInt (f32Sign b) (m * 2 ^ (F - E)), ?_⟩
    rw [signedInt_mul_natCast, show (F : Int) - 149 = ((F - E : Nat) : Int) + (E - 149) by omega]
    push_cast
    rw [zpow_add₀ two_ne_zero, zpow_natCast, mul_assoc]

section
variable {x : ℝ} {n E : Nat} (hx : NearestEven x n) (hlt : x < 2 ^ 24) (hnormal : 0 < E → 2 ^ 23 ≤ x)
include hx

/-- A bound that is a natural number is kept by rounding, from above and from below. -/
theorem NearestEven.le_of_lt {k : Nat} (hlt : x < k) : n ≤ k := by
  have := abs_le.mp hx.close
  have h : (n : ℝ) < (k + 1 : Nat) := by push_cast; linarith
  exact Nat.lt_succ_iff.mp (by exact_mod_cast h)

theorem NearestEven.ge_of_le {k : Nat} (hle : k ≤ x) : k ≤ n := by
  have := abs_le.mp hx.close
  have h : (k : ℝ) < (n + 1 : Nat) := by push_cast; linarith
  exact Nat.lt_succ_iff.mp (by exact_mod_cast h)

include hlt

/-- From half a last place below `2^24` on, the nearest significand carries: the tie goes to the even one. -/
theorem NearestEven.carry_iff : 2 ^ 24 ≤ n ↔ 2 ^ 24 - 1 / 2 ≤ x := by
  obtain ⟨hlow, hhigh⟩ := abs_le.mp hx.close
  constructor
  · intro h
    have h' : (2 : ℝ) ^ 24 ≤ n := by exact_mod_cast h
    linarith
  · intro h
    have hge : 2 ^ 24 - 1 ≤ n := hx.ge_of_le (by push_cast; linarith)
    by_contra hn
    obtain rfl : n = 2 ^ 24 - 1 := by omega
    have hodd := hx.tie (by rw [abs_of_nonneg] <;> push_cast at hhigh ⊢ <;> linarith)
    omega

omit hx in
theorem lt_overflow_of_exponent (h : E ≤ 252) : x * 2 ^ ((E : Int) - 149) < f32Overflow := by
  calc x * 2 ^ ((E : Int) - 149) < 2 ^ 24 * 2 ^ ((E : Int) - 149) := by gcongr
    _ ≤ 2 ^ 24 * 2 ^ (103 : Int) := by gcongr <;> [norm_num; omega]
    _ < f32Overflow := by norm_num [f32Overflow]

include hnormal

omit hx hlt in
theorem overflow_le_of_exponent (h : 254 ≤ E) : f32Overflow ≤ x * 2 ^ ((E : Int) - 149) := by
  calc (f32Overflow : ℝ) ≤ 2 ^ 23 * 2 ^ (105 : Int) := by norm_num [f32Overflow]
    _ ≤ 2 ^ 23 * 2 ^ ((E : Int) - 149) := by gcongr <;> [norm_num; omega]
    _ ≤ x * 2 ^ ((E : Int) - 149) := by gcongr; exact hnormal (by omega)

/-- The rounded pattern is past the finite ones exactly when the number is half a last place above them. -/
theorem overflow_iff : 0x7F800000 ≤ E * 2 ^ 23 + n ↔ f32Overflow ≤ x * 2 ^ ((E : Int) - 149) := by
  have hle : n ≤ 2 ^ 24 := hx.le_of_lt (by exact_mod_cast hlt)
  rcases lt_trichotomy E 253 with hE | rfl | hE
  · have := lt_overflow_of_exponent hlt (show E ≤ 252 by omega)
    exact iff_of_false (by omega) (not_le.mpr this)
  · have hov : f32Overflow ≤ x * 2 ^ (((253 : Nat) : Int) - 149) ↔ 2 ^ 24 - 1 / 2 ≤ x := by
      rw [show (((253 : Nat) : Int) - 149) = 104 by norm_num,
        show (f32Overflow : ℝ) = (2 ^ 24 - 1 / 2) * 2 ^ (104 : Int) by norm_num [f32Overflow]]
      exact mul_le_mul_iff_left₀ (by positivity)
    rw [hov, ← hx.carry_iff hlt]
    omega
  · have h23 : 2 ^ 23 ≤ n := hx.ge_of_le (by exact_mod_cast hnormal (by omega))
    exact iff_of_true (by omega) (overflow_le_of_exponent hnormal (by omega))

omit hlt in
/-- Of all finite values none is nearer than the nearest significand at its exponent. -/
theorem nearest_of_nearestEven {b : F32} {r : Rat} (hr : f32Value b = some r) :
    |x * 2 ^ ((E : Int) - 149) - n * 2 ^ ((E : Int) - 149)| ≤ |x * 2 ^ ((E : Int) - 149) - r| ∧
      (|x * 2 ^ ((E : Int) - 149) - n * 2 ^ ((E : Int) - 149)| = |x * 2 ^ ((E : Int) - 149) - r| →
        n * 2 ^ ((E : Int) - 149) = (r : ℝ) ∨ n % 2 = 0) := by
  have hu : (0 : ℝ) < 2 ^ ((E : Int) - 149) := by positivity
  rw [← sub_mul, abs_mul, abs_of_pos hu]
  rcases f32Value_multiple_or_small hr E with ⟨i, hi⟩ | ⟨hE, hsmall⟩
  · obtain ⟨hle, htie⟩ := hx.no_nearer i
    rw [hi, ← sub_mul, abs_mul, abs_of_pos hu]
    refine ⟨mul_le_mul_of_nonneg_right hle hu.le, fun h => ?_⟩
    rw [mul_left_inj' hu.ne'] at h ⊢
    exact htie h
  · have h23 := hnormal hE
    have hle : |x - n| ≤ x - 2 ^ 23 := by
      have := (hx.no_nearer (2 ^ 23 : Nat)).1
      rwa [Int.cast_natCast, Nat.cast_pow, Nat.cast_ofNat, abs_of_nonneg (sub_nonneg.mpr h23)] at this
    have hlt : |x - n| * 2 ^ ((E : Int) - 149) < |x * 2 ^ ((E : Int) - 149) - r| := by
      calc |x - n| * 2 ^ ((E : Int) - 149) ≤ (x - 2 ^ 23) * 2 ^ ((E : Int) - 149) := by gcongr
        _ = x * 2 ^ ((E : Int) - 149) - 2 ^ 23 * 2 ^ ((E : Int) - 149) := sub_mul _ _ _
        _ < x * 2 ^ ((E : Int) - 149) - |(r : ℝ)| := by gcongr
        _ ≤ |x * 2 ^ ((E : Int) - 149) - r| := (sub_le_sub_left (le_abs_self _) _).trans (le_abs_self _)
    exact ⟨hlt.le, fun h => absurd h hlt.ne⟩

/-- A number with its nearest 24-bit significand, put into a pattern, is correctly rounded. -/
theorem correctlyRounded_of_nearestEven (h0 : 0 ≤ x) :
    CorrectlyRounded (x * 2 ^ ((E : Int) - 149)) (signed false (min (E * 2 ^ 23 + n) 0x7F800000)) := by
  have hv : 0 ≤ x * 2 ^ ((E : Int) - 149) := by positivity
  have hoverflow := overflow_iff hx hlt hnormal
  have hov : (0 : ℝ) < f32Overflow := by norm_num [f32Overflow]
  refine ⟨fun hfin => ?_, fun hbig => ?_, fun hsmall => by linarith, fun _ => f32Sign_signed _ _,
    fun hneg => by linarith⟩
  · rw [abs_of_nonneg hv, ← not_le, ← hoverflow, not_le] at hfin
    rw [min_eq_left hfin.le]
    have hval := f32Value_signed false (hx.le_of_lt (by exact_mod_cast hlt))
      (fun hE => hx.ge_of_le (by exact_mod_cast hnormal hE)) hfin
    refine ⟨_, hval, fun b r hr => ?_⟩
    obtain ⟨hle, htie⟩ := nearest_of_nearestEven hx hnormal hr
    have hcast : ((signedInt false n * (2 : Rat) ^ ((E : Int) - 149) : Rat) : ℝ) = n * 2 ^ ((E : Int) - 149) := by
      simp [signedInt]
    rw [hcast]
    refine ⟨hle, fun h => (htie h).imp (fun heq => ?_) (fun heven => ?_)⟩
    · rw [← hcast] at heq
      exact_mod_cast heq
    · rw [getLsbD_zero_signed _ (hfin.trans (by decide)), decide_eq_false_iff_not]
      omega
  · rw [min_eq_right (hoverflow.mpr hbig)]
    rfl
end

/-! ## Packing and the operations on finite values (R150) -/

/-- The exponent field `roundPack` works at, less the carry: that of a last place of 24 significant bits. -/
def packExp (m : Nat) (e : Int) : Nat := ((Nat.log2 m : Int) + e + 126).toNat

@[simp] theorem roundPack_zero (s : Bit) (e : Int) : roundPack s 0 e = f32Zero s := rfl

theorem roundPack_eq (s : Bit) {m : Nat} (hm : m ≠ 0) (e : Int) :
    roundPack s m e =
      signed s (min (packExp m e * 2 ^ 23 + rneScale m (e - ((packExp m e : Int) - 149))) 0x7F800000) := by
  have hq : max ((Nat.log2 m : Int) + e - 23) (-149) = (packExp m e : Int) - 149 := by
    unfold packExp
    omega
  simp only [roundPack, if_neg hm, hq, sub_add_cancel, Int.toNat_natCast]

theorem packed_significand_lt (m : Nat) (e : Int) : (m : ℝ) * 2 ^ (e - ((packExp m e : Int) - 149)) < 2 ^ 24 := by
  have h : (m : ℝ) < 2 ^ ((Nat.log2 m + 1 : Nat) : Int) := by
    rw [zpow_natCast]
    exact_mod_cast Nat.lt_log2_self
  calc (m : ℝ) * 2 ^ (e - ((packExp m e : Int) - 149)) <
        2 ^ ((Nat.log2 m + 1 : Nat) : Int) * 2 ^ (e - ((packExp m e : Int) - 149)) := by gcongr
    _ = 2 ^ (((Nat.log2 m + 1 : Nat) : Int) + (e - ((packExp m e : Int) - 149))) := (zpow_add₀ two_ne_zero _ _).symm
    _ ≤ 2 ^ (24 : Int) := zpow_le_zpow_right₀ one_le_two (by unfold packExp; omega)
    _ = 2 ^ 24 := by norm_num

theorem packed_significand_ge {m : Nat} (hm : m ≠ 0) (e : Int) (h : 0 < packExp m e) :
    (2 : ℝ) ^ 23 ≤ m * 2 ^ (e - ((packExp m e : Int) - 149)) := by
  have hlog : (2 : ℝ) ^ ((Nat.log2 m : Nat) : Int) ≤ m := by
    rw [zpow_natCast]
    exact_mod_cast Nat.log2_self_le hm
  calc (2 : ℝ) ^ 23 = 2 ^ (23 : Int) := by norm_num
    _ = 2 ^ (((Nat.log2 m : Nat) : Int) + (e - ((packExp m e : Int) - 149))) := by
      congr 1
      unfold packExp at h ⊢
      omega
    _ = 2 ^ ((Nat.log2 m : Nat) : Int) * 2 ^ (e - ((packExp m e : Int) - 149)) := zpow_add₀ two_ne_zero _ _
    _ ≤ m * 2 ^ (e - ((packExp m e : Int) - 149)) := by gcongr

theorem f32Sign_roundPack (s : Bit) (m : Nat) (e : Int) : f32Sign (roundPack s m e) = s := by
  unfold roundPack
  split <;> exact f32Sign_signed _ _

theorem f32Neg_roundPack (s : Bit) (m : Nat) (e : Int) : f32Neg (roundPack s m e) = roundPack (!s) m e := by
  unfold roundPack
  split <;> exact f32Neg_signed _ _

theorem correctlyRounded_roundPack_pos (m : Nat) (e : Int) :
    CorrectlyRounded ((m : ℝ) * 2 ^ e) (roundPack false m e) := by
  rcases eq_or_ne m 0 with rfl | hm
  · simpa using correctlyRounded_zero false
  · have h := correctlyRounded_of_nearestEven (rneScale_nearestEven m (e - ((packExp m e : Int) - 149)))
      (packed_significand_lt m e) (packed_significand_ge hm e) (by positivity)
    rwa [mul_assoc, ← zpow_add₀ two_ne_zero, sub_add_cancel, ← roundPack_eq false hm] at h

theorem correctlyRounded_roundPack (s : Bit) (m : Nat) (e : Int) :
    CorrectlyRounded ((signedInt s m : ℝ) * 2 ^ e) (roundPack s m e) := by
  have h := correctlyRounded_roundPack_pos m e
  cases s with
  | false => simpa [signedInt] using h
  | true => simpa [signedInt, f32Neg_roundPack] using h.neg

theorem rneScale_neg (m k : Nat) : rneScale m (-((k + 2 : Nat) : Int)) = rneShift m (k + 2) := by
  rw [rneScale, if_neg (by omega), neg_neg, Int.toNat_natCast]

/-- The root's integer part with a sticky bit is rounded as the root itself: neither is a tie. -/
theorem nearestEven_sticky {y : ℝ} {r : Nat} (hlow : r < y) (hhigh : y < r + 1) (k : Nat) :
    NearestEven (y / 2 ^ (k + 1)) (rneShift (2 * r + 1) (k + 2)) := by
  obtain ⟨hle, hge, -⟩ := rneShift_spec (2 * r + 1) (k + 2)
  set R := rneShift (2 * r + 1) (k + 2)
  have hd : (0 : ℝ) < 2 ^ (k + 1) := by positivity
  have hle' : R * 2 ^ (k + 1) ≤ r + 2 ^ k := by ring_nf at hle ⊢; omega
  have hge' : r + 1 ≤ R * 2 ^ (k + 1) + 2 ^ k := by ring_nf at hge ⊢; omega
  have hlt : |y / 2 ^ (k + 1) - R| < 1 / 2 := by
    have h1 : (R : ℝ) * 2 ^ (k + 1) ≤ r + 2 ^ k := by exact_mod_cast hle'
    have h2 : (r : ℝ) + 1 ≤ R * 2 ^ (k + 1) + 2 ^ k := by exact_mod_cast hge'
    have h3 : y / 2 ^ (k + 1) * 2 ^ (k + 1) = y := div_mul_cancel₀ _ hd.ne'
    rw [abs_lt]
    constructor <;> rw [pow_succ] at * <;> nlinarith
  exact ⟨hlt.le, fun h => absurd h hlt.ne⟩


/-- A number between two integers, scaled down by at least `2^4`, is correctly rounded once it is known up to a
sticky bit. -/
theorem correctlyRounded_sticky {y : ℝ} {r : Nat} (hr : 2 ^ 26 ≤ r) (hlow : r < y) (hhigh : y < r + 1) (h : Int) :
    CorrectlyRounded (y * 2 ^ h) (roundPack false (2 * r + 1) (h - 1)) := by
  have hlt := packed_significand_lt (2 * r + 1) (h - 1)
  have hge := packed_significand_ge (Nat.succ_ne_zero (2 * r)) (h - 1)
  have hexp : ((2 * r + 1).log2 : Int) + (h - 1) + 126 ≤ packExp (2 * r + 1) (h - 1) := Int.self_le_toNat _
  have hlog : 27 ≤ (2 * r + 1).log2 := (Nat.le_log2 (Nat.succ_ne_zero _)).mpr (by omega)
  rw [roundPack_eq false (Nat.succ_ne_zero (2 * r))]
  generalize packExp (2 * r + 1) (h - 1) = E at *
  obtain ⟨k, hk⟩ : ∃ k : Nat, h - 1 - ((E : Int) - 149) = -((k + 2 : Nat) : Int) :=
    ⟨((E : Int) - 149 - h - 1).toNat, by omega⟩
  have hy : 0 ≤ y := r.cast_nonneg.trans hlow.le
  rw [hk, zpow_neg, zpow_natCast, ← div_eq_mul_inv] at hlt hge
  rw [div_lt_iff₀ (by positivity)] at hlt
  rw [le_div_iff₀ (by positivity)] at hge
  have hlt' : r + 1 ≤ 2 ^ 24 * 2 ^ (k + 1) := by
    have : 2 * r + 1 < 2 ^ 24 * 2 ^ (k + 2) := by exact_mod_cast hlt
    rw [pow_succ 2 (k + 1)] at this
    omega
  have hge' : 0 < E → 2 ^ 23 * 2 ^ (k + 1) ≤ r := by
    intro hE
    have : 2 ^ 23 * 2 ^ (k + 2) ≤ 2 * r + 1 := by exact_mod_cast hge hE
    rw [pow_succ 2 (k + 1)] at this
    omega
  have hround := correctlyRounded_of_nearestEven (E := E) (nearestEven_sticky hlow hhigh k)
    (by rw [div_lt_iff₀ (by positivity)]; exact hhigh.trans_le (by exact_mod_cast hlt'))
    (fun hE => by rw [le_div_iff₀ (by positivity)]; exact le_trans (by exact_mod_cast hge' hE) hlow.le)
    (by positivity)
  have hval : y * 2 ^ h = y / 2 ^ (k + 1) * 2 ^ ((E : Int) - 149) := by
    rw [show (E : Int) - 149 = h + ((k + 1 : Nat) : Int) by push_cast at hk ⊢; omega, zpow_add₀ two_ne_zero,
      zpow_natCast]
    field_simp
  rwa [hk, rneScale_neg, hval]

/-- The root of a scaled radicand, by its integer root and a sticky bit. -/
theorem correctlyRounded_integerRoot {n r : Nat} (hbig : 2 ^ 52 ≤ n) (hle : r * r ≤ n) (hgt : n < (r + 1) * (r + 1))
    (h : Int) :
    CorrectlyRounded (√(n : ℝ) * 2 ^ h) (roundPack false (2 * r + (if r * r = n then 0 else 1)) (h - 1)) := by
  split
  · next hexact =>
    have hval : (r : ℝ) * 2 ^ h = (2 * r : Nat) * 2 ^ (h - 1) := by
      rw [zpow_sub_one₀ two_ne_zero]
      push_cast
      ring
    rw [← hexact, Nat.cast_mul, Real.sqrt_mul_self r.cast_nonneg, hval]
    exact correctlyRounded_roundPack_pos (2 * r) _
  · next hexact =>
    have hr : 2 ^ 26 ≤ r := by
      rw [← Nat.lt_succ_iff, ← Nat.mul_self_lt_mul_self_iff, ← pow_add]
      exact hbig.trans_lt hgt
    refine correctlyRounded_sticky hr (Real.lt_sqrt_of_sq_lt ?_) ((Real.sqrt_lt' (by positivity)).mpr ?_) _
    · rw [sq]
      exact_mod_cast hle.lt_of_ne hexact
    · rw [sq]
      exact_mod_cast hgt

/-- Half of an even exponent comes out of the root. -/
theorem sqrt_mul_zpow (m j : Nat) (e : Int) (heven : (e - j) / 2 * 2 = e - j) :
    √((m : ℝ) * 2 ^ e) = √((m * 2 ^ j : Nat) : ℝ) * 2 ^ ((e - j) / 2) := by
  have hsq : (m : ℝ) * 2 ^ e = (m * 2 ^ j : Nat) * (2 ^ ((e - j) / 2) * 2 ^ ((e - j) / 2)) := by
    rw [← zpow_add₀ two_ne_zero, ← mul_two, heven, zpow_sub₀ two_ne_zero, zpow_natCast]
    push_cast
    field_simp
  rw [hsq, Real.sqrt_mul (Nat.cast_nonneg _), Real.sqrt_mul_self (by positivity)]

theorem correctlyRounded_sqrtFinite {m : Nat} {e : Int} (hm : m ≠ 0) (hlt : m < 2 ^ 24) :
    CorrectlyRounded (√((m : ℝ) * 2 ^ e)) (sqrtFinite m e) := by
  obtain ⟨j, hj, hj52, hj53, heven⟩ : ∃ j : Nat, j = (if e % 2 = 0 then 52 else 53) ∧ 52 ≤ j ∧ j ≤ 53 ∧
      ((e - j) / 2) * 2 = e - j := by
    refine ⟨_, rfl, ?_⟩
    split <;> omega
  simp only [sqrtFinite, ← hj]
  have hbig : 2 ^ 52 ≤ m * 2 ^ j :=
    (Nat.pow_le_pow_right two_pos hj52).trans (Nat.le_mul_of_pos_left _ (Nat.pos_of_ne_zero hm))
  have hsmall : m * 2 ^ j < 2 ^ 80 := by
    calc m * 2 ^ j < 2 ^ 24 * 2 ^ j := Nat.mul_lt_mul_of_pos_right hlt (Nat.two_pow_pos j)
      _ ≤ 2 ^ 24 * 2 ^ 53 := Nat.mul_le_mul_left _ (Nat.pow_le_pow_right two_pos hj53)
      _ < 2 ^ 80 := by decide
  rw [sqrt_mul_zpow m j e heven]
  obtain ⟨hle, hgt⟩ := isqrt_spec hsmall
  exact correctlyRounded_integerRoot hbig hle hgt _

/-- The product of two finite values is rounded once. -/
theorem f32Mul_of_readsAs {a b : F32} {E F m n : Nat} (ha : ReadsAs (f32Mag a) E m) (hb : ReadsAs (f32Mag b) F n) :
    f32Mul a b = roundPack (f32Sign a ^^ f32Sign b) (m * n) ((E : Int) - 149 + (F - 149)) := by
  rw [f32Mul, unpack_of_readsAs ha, unpack_of_readsAs hb]

theorem f32Add_of_readsAs {a b : F32} {E F m n : Nat} (ha : ReadsAs (f32Mag a) E m) (hb : ReadsAs (f32Mag b) F n) :
    f32Add a b = addFinite (f32Sign a) m ((E : Int) - 149) (f32Sign b) n ((F : Int) - 149) := by
  rw [f32Add, unpack_of_readsAs ha, unpack_of_readsAs hb]

theorem f32Sub_of_readsAs {a b : F32} {E F m n : Nat} (ha : ReadsAs (f32Mag a) E m) (hb : ReadsAs (f32Mag b) F n) :
    f32Sub a b = addFinite (f32Sign a) m ((E : Int) - 149) (!f32Sign b) n ((F : Int) - 149) := by
  rw [f32Sub, f32Add_of_readsAs ha (by rwa [f32Mag_neg]), f32Sign_neg]

theorem f32Sqrt_of_readsAs {a : F32} {E m : Nat} (ha : ReadsAs (f32Mag a) E m) :
    f32Sqrt a = if m = 0 then f32Zero (f32Sign a)
      else if f32Sign a then nanPattern (Config.nanSqrt a) else sqrtFinite m ((E : Int) - 149) := by
  rw [f32Sqrt, unpack_of_readsAs ha]

theorem correctlyRounded_mul {a b : F32} {p q : Rat} (ha : f32Value a = some p) (hb : f32Value b = some q) :
    CorrectlyRounded ((p : ℝ) * q) (f32Mul a b) ∧ f32Sign (f32Mul a b) = (f32Sign a ^^ f32Sign b) := by
  obtain ⟨E, m, hr, rfl⟩ := exists_readsAs_of_f32Value ha
  obtain ⟨F, n, hr', rfl⟩ := exists_readsAs_of_f32Value hb
  have hround := correctlyRounded_roundPack (f32Sign a ^^ f32Sign b) (m * n) ((E : Int) - 149 + (F - 149))
  rw [signedInt_xor, zpow_add₀ two_ne_zero, Int.cast_mul, mul_mul_mul_comm] at hround
  rw [f32Mul_of_readsAs hr hr']
  push_cast
  exact ⟨hround, f32Sign_roundPack _ _ _⟩

/-- The integer sum that `addFinite` rounds is the exact sum. -/
theorem addFinite_sum (s t : Bit) (m n : Nat) (e f : Int) :
    ((signedInt s (m * 2 ^ (e - min e f).toNat) + signedInt t (n * 2 ^ (f - min e f).toNat) : Int) : ℝ) *
      2 ^ min e f = signedInt s m * 2 ^ e + signedInt t n * 2 ^ f := by
  have hscale (s : Bit) (m : Nat) {e k : Int} (h : k ≤ e) :
      (signedInt s (m * 2 ^ (e - k).toNat) : ℝ) * 2 ^ k = signedInt s m * 2 ^ e := by
    rw [signedInt_mul_natCast]
    push_cast
    rw [mul_assoc, ← zpow_natCast, Int.toNat_of_nonneg (sub_nonneg.mpr h), ← zpow_add₀ two_ne_zero, sub_add_cancel]
  rw [Int.cast_add, add_mul, hscale s m (min_le_left e f), hscale t n (min_le_right e f)]

/-- The sum of two finite values is rounded once; an exact zero is negative only if both are. -/
theorem correctlyRounded_addFinite (s t : Bit) (m n : Nat) (e f : Int) :
    CorrectlyRounded ((signedInt s m : ℝ) * 2 ^ e + signedInt t n * 2 ^ f) (addFinite s m e t n f) ∧
      ((signedInt s m : ℝ) * 2 ^ e + signedInt t n * 2 ^ f = 0 → f32Sign (addFinite s m e t n f) = (s && t)) := by
  rw [← addFinite_sum, addFinite]
  set sum := signedInt s (m * 2 ^ (e - min e f).toNat) + signedInt t (n * 2 ^ (f - min e f).toNat)
  rcases eq_or_ne sum 0 with h | h
  · rw [if_pos h, h, Int.cast_zero, zero_mul]
    exact ⟨correctlyRounded_zero _, fun _ => f32Sign_signed _ _⟩
  · rw [if_neg h]
    have hround := correctlyRounded_roundPack (decide (sum < 0)) sum.natAbs (min e f)
    rw [signedInt_decide_neg] at hround
    exact ⟨hround, fun h0 => absurd h0 (by positivity)⟩

theorem correctlyRounded_add {a b : F32} {p q : Rat} (ha : f32Value a = some p) (hb : f32Value b = some q) :
    CorrectlyRounded ((p : ℝ) + q) (f32Add a b) ∧ (p + q = 0 → f32Sign (f32Add a b) = (f32Sign a && f32Sign b)) := by
  obtain ⟨E, m, hr, rfl⟩ := exists_readsAs_of_f32Value ha
  obtain ⟨F, n, hr', rfl⟩ := exists_readsAs_of_f32Value hb
  obtain ⟨hround, hzero⟩ := correctlyRounded_addFinite (f32Sign a) (f32Sign b) m n ((E : Int) - 149) (F - 149)
  rw [f32Add_of_readsAs hr hr']
  push_cast
  exact ⟨hround, fun h => hzero (by simpa using congrArg (Rat.cast : Rat → ℝ) h)⟩

theorem correctlyRounded_sqrt {a : F32} {p : Rat} (ha : f32Value a = some p) (hp : 0 ≤ p) :
    CorrectlyRounded (√p) (f32Sqrt a) := by
  obtain ⟨E, m, hr, rfl⟩ := exists_readsAs_of_f32Value ha
  rw [f32Sqrt_of_readsAs hr]
  rcases eq_or_ne m 0 with rfl | hm
  · rw [if_pos rfl, show signedInt (f32Sign a) 0 = 0 by simp [signedInt]]
    simpa using correctlyRounded_zero (f32Sign a)
  · have hs : f32Sign a = false := by
      rw [← Bool.not_eq_true]
      intro h
      rw [mul_nonneg_iff_of_pos_right (by positivity), h] at hp
      simp [signedInt, hm] at hp
    rw [if_neg hm, hs]
    simpa [signedInt] using correctlyRounded_sqrtFinite hm hr.sig_lt

/-! ## The special values of the default `F32` (R150) -/

theorem f32Mul_of_isNaN {a b : F32} (h : isNaN a = true ∨ isNaN b = true) :
    f32Mul a b = nanPattern (Config.nanMul a b) := by
  unfold f32Mul
  rcases h with h | h
  · rw [unpack_of_isNaN h]
  · rw [unpack_of_isNaN h]
    cases unpack a <;> rfl

theorem f32Add_of_isNaN {a b : F32} (h : isNaN a = true ∨ isNaN b = true) :
    f32Add a b = nanPattern (Config.nanAdd a b) := by
  unfold f32Add
  rcases h with h | h
  · rw [unpack_of_isNaN h]
  · rw [unpack_of_isNaN h]
    cases unpack a <;> rfl

/-- A NaN operand gives a NaN and is less than nothing. -/
theorem isNaN_of_nan_operand {a b : F32} (h : isNaN a = true ∨ isNaN b = true) :
    isNaN (f32Mul a b) = true ∧ isNaN (f32Add a b) = true ∧ isNaN (f32Sub a b) = true ∧ f32Lt a b = false := by
  refine ⟨?_, ?_, ?_, ?_⟩
  · rw [f32Mul_of_isNaN h, isNaN_nanPattern]
  · rw [f32Add_of_isNaN h, isNaN_nanPattern]
  · rw [f32Sub, f32Add_of_isNaN (by rwa [isNaN_neg]), isNaN_nanPattern]
  · rcases h with h | h <;> simp [f32Lt, h]

theorem orderKey_neg_iff (a : F32) : orderKey a < 0 ↔ f32Sign a = true ∧ f32Mag a ≠ 0 := by
  cases h : f32Sign a <;> simp [orderKey, h, signedInt, Nat.pos_iff_ne_zero]

/-- What is less than zero: a negative number, and no zero. -/
theorem f32Lt_zero_iff (a : F32) :
    f32Lt a 0x00000000 = true ↔ isNaN a = false ∧ f32Sign a = true ∧ f32Mag a ≠ 0 := by
  have hnan : isNaN 0x00000000 = false := by decide
  have hkey : orderKey 0x00000000 = 0 := by decide
  simp only [f32Lt, hnan, hkey, Bool.not_false, Bool.and_true, Bool.and_eq_true, Bool.not_eq_true',
    decide_eq_true_iff, orderKey_neg_iff]

/-- The root of a NaN or of a negative number is a NaN. -/
theorem isNaN_f32Sqrt {a : F32} (h : isNaN a = true ∨ f32Lt a 0x00000000 = true) : isNaN (f32Sqrt a) = true := by
  unfold f32Sqrt
  rcases h with h | h
  · simp only [unpack_of_isNaN h, isNaN_nanPattern]
  · obtain ⟨hnan, hsign, hmag⟩ := (f32Lt_zero_iff a).mp h
    rcases unpack_cases a with ⟨hn, _⟩ | ⟨_, hu⟩ | ⟨E, m, hr, hu⟩
    · rw [hn] at hnan
      cases hnan
    · simp only [hu, hsign, if_true, isNaN_nanPattern]
    · have hm : m ≠ 0 := by
        obtain ⟨hmag', -, -, hnormal⟩ := hr
        omega
      simp only [hu, hm, hsign, if_true, if_false, isNaN_nanPattern]

theorem listedProperties_ieee : ListedProperties ieee where
  inf_mul_inf := by decide +kernel
  one_sub_inf := by decide +kernel
  sqrt_zero := by decide +kernel
  sqrt_neg_zero := by decide +kernel
  zeros_equal := by decide +kernel
  nan_operand _ _ := isNaN_of_nan_operand
  sqrt_nan _ := isNaN_f32Sqrt

/-- The source's unit-norm example: 0.6 gives the pattern nearest 0.8 (R151). -/
theorem solveW_unitNorm : solveW ieee 0x3F19999A 0 0 = 0x3F4CCCCD := by decide +kernel

theorem meetsFloatTol_of_ieee {cfg : Params} (hieee : cfg.arith = .ieee) (htol : 1 / 2 ^ 24 ≤ cfg.floatTol) :
    meetsFloatTol cfg := by
  refine ⟨13421773 / 2 ^ 24, ?_, le_trans ?_ htol⟩
  · rw [hieee, f32Ops, solveW_unitNorm]
    decide +kernel
  · norm_num [abs_le]

/-! ## Results that are no NaN and not negative (R152, R153) -/

/-- A number with sign bit 0: no NaN, and not `-0`. -/
structure IsNonNegative (a : F32) : Prop where
  number : isNaN a = false
  sign : f32Sign a = false

theorem isNonNegative_inf : IsNonNegative (f32Inf false) := ⟨by decide, by decide⟩

theorem isNonNegative_zero : IsNonNegative (f32Zero false) := ⟨by decide, by decide⟩

theorem isNaN_f32Zero (s : Bit) : isNaN (f32Zero s) = false := by cases s <;> decide

theorem isNaN_roundPack (s : Bit) (m : Nat) (e : Int) : isNaN (roundPack s m e) = false := by
  unfold roundPack
  split
  · exact isNaN_f32Zero s
  · have hle (k : Nat) : min k 0x7F800000 ≤ 0x7F800000 := min_le_right _ _
    rw [isNaN_eq_false, f32Mag_signed _ ((hle _).trans_lt (by decide))]
    exact hle _

theorem isNonNegative_roundPack (m : Nat) (e : Int) : IsNonNegative (roundPack false m e) :=
  ⟨isNaN_roundPack _ _ _, f32Sign_roundPack _ _ _⟩

/-- A number not below the least place is not rounded to zero. -/
theorem f32Mag_roundPack_ne_zero (s : Bit) {m : Nat} (hm : m ≠ 0) {e : Int} (he : -149 ≤ e) :
    f32Mag (roundPack s m e) ≠ 0 := by
  have hsig : packExp m e = 0 → rneScale m (e - ((packExp m e : Int) - 149)) ≠ 0 := by
    intro hE
    rw [rneScale, if_pos (by omega)]
    exact Nat.mul_ne_zero hm (Nat.two_pow_pos _).ne'
  rw [roundPack_eq s hm, f32Mag_signed _ (lt_of_le_of_lt (min_le_right _ _) (by decide))]
  omega

/-- A number other than `-0`. -/
structure IsNotNegativeZero (a : F32) : Prop where
  number : isNaN a = false
  zero : f32Mag a = 0 → f32Sign a = false

/-- The two forms of a number that is not negative. -/
theorem IsNonNegative.cases {a : F32} (h : IsNonNegative a) : a = f32Inf false ∨ ∃ E m, ReadsAs (f32Mag a) E m := by
  obtain ⟨hnan, hsign⟩ := h
  rcases unpack_cases a with ⟨hn, _⟩ | ⟨hmag, _⟩ | ⟨E, m, hr, _⟩
  · rw [hn] at hnan
    cases hnan
  · exact .inl (by rw [← signed_fields a, hsign, hmag]; rfl)
  · exact .inr ⟨E, m, hr⟩

/-! ## The radicand (R151, R153) -/

/-- A square is not negative. -/
theorem isNonNegative_f32Mul_self {x : F32} (hx : isNaN x = false) : IsNonNegative (f32Mul x x) := by
  rcases unpack_cases x with ⟨hn, _⟩ | ⟨_, hu⟩ | ⟨E, m, hr, _⟩
  · rw [hn] at hx
    cases hx
  · simp only [f32Mul, hu, Bool.xor_self]
    exact isNonNegative_inf
  · rw [f32Mul_of_readsAs hr hr, Bool.xor_self]
    exact isNonNegative_roundPack _ _

theorem f32Mul_self_of_inf {x : F32} (h : f32Mag x = 0x7F800000) : f32Mul x x = f32Inf false := by
  simp only [f32Mul, unpack_of_mag_inf h, Bool.xor_self]

/-- The sign of a number has no effect on its square. -/
theorem f32Mul_neg_self {x : F32} (hx : isNaN x = false) : f32Mul (f32Neg x) (f32Neg x) = f32Mul x x := by
  rcases unpack_cases x with ⟨hn, _⟩ | ⟨hmag, _⟩ | ⟨E, m, hr, _⟩
  · rw [hn] at hx
    cases hx
  · rw [f32Mul_self_of_inf hmag, f32Mul_self_of_inf ((f32Mag_neg x).trans hmag)]
  · have hr' : ReadsAs (f32Mag (f32Neg x)) E m := by rwa [f32Mag_neg]
    rw [f32Mul_of_readsAs hr hr, f32Mul_of_readsAs hr' hr', Bool.xor_self, Bool.xor_self]

theorem unpack_inf : unpack (f32Inf false) = .inf false := by decide

/-- Infinity takes in whatever is added to it, but for a NaN and its opposite. -/
theorem f32Add_inf_left {b : F32} (hb : IsNonNegative b) : f32Add (f32Inf false) b = f32Inf false := by
  rcases hb.cases with rfl | ⟨E, m, hr⟩
  · simp only [f32Add, unpack_inf, if_true]
  · simp only [f32Add, unpack_inf, unpack_of_readsAs hr]

theorem f32Add_inf_right {a : F32} (ha : IsNonNegative a) : f32Add a (f32Inf false) = f32Inf false := by
  rcases ha.cases with rfl | ⟨E, m, hr⟩
  · exact f32Add_inf_left isNonNegative_inf
  · simp only [f32Add, unpack_inf, unpack_of_readsAs hr]

theorem isNonNegative_addFinite (m n : Nat) (e f : Int) : IsNonNegative (addFinite false m e false n f) := by
  have hsum (i j : Nat) : ¬ (signedInt false i + signedInt false j < 0) := by
    simp only [signedInt, Bool.false_eq_true, if_false]
    omega
  simp only [addFinite, hsum, decide_false, Bool.and_self]
  split
  · exact isNonNegative_zero
  · exact isNonNegative_roundPack _ _

theorem isNonNegative_f32Add {a b : F32} (ha : IsNonNegative a) (hb : IsNonNegative b) :
    IsNonNegative (f32Add a b) := by
  rcases ha.cases with rfl | ⟨E, m, hr⟩
  · rw [f32Add_inf_left hb]
    exact isNonNegative_inf
  · rcases hb.cases with rfl | ⟨F, n, hr'⟩
    · rw [f32Add_inf_right ha]
      exact isNonNegative_inf
    · rw [f32Add_of_readsAs hr hr', ha.sign, hb.sign]
      exact isNonNegative_addFinite _ _ _ _

/-- A difference of finite values that are not negative is never `-0`. -/
theorem f32Sub_of_finite {a b : F32} {E F m n : Nat} (ha : ReadsAs (f32Mag a) E m) (hb : ReadsAs (f32Mag b) F n)
    (hs : f32Sign a = false) (ht : f32Sign b = false) : IsNotNegativeZero (f32Sub a b) := by
  simp only [f32Sub_of_readsAs ha hb, hs, ht, addFinite, Bool.false_and]
  split
  · exact ⟨isNaN_f32Zero _, fun _ => f32Sign_signed _ _⟩
  · next h =>
    exact ⟨isNaN_roundPack _ _ _, fun h0 => absurd h0
      (f32Mag_roundPack_ne_zero _ (Int.natAbs_ne_zero.mpr h) (by omega))⟩

theorem readsAs_one : ReadsAs (f32Mag f32One) 126 (2 ^ 23) :=
  ⟨by decide, by decide, by decide, fun _ => le_refl _⟩

theorem f32Sub_one_inf : f32Sub f32One (f32Inf false) = f32Inf true := by decide +kernel

/-- `1` less a number that is not negative is a number, and never `-0` (R153). -/
theorem f32Sub_one {a : F32} (ha : IsNonNegative a) : IsNotNegativeZero (f32Sub f32One a) := by
  rcases ha.cases with rfl | ⟨E, m, hr⟩
  · rw [f32Sub_one_inf]
    exact ⟨by decide, by decide⟩
  · exact f32Sub_of_finite readsAs_one hr (by decide) ha.sign

/-- The sum of the three squares (R151). -/
def squareSum (x y z : F32) : F32 := f32Add (f32Add (f32Mul x x) (f32Mul y y)) (f32Mul z z)

theorem radicand_ieee (x y z : F32) : radicand ieee x y z = f32Sub f32One (squareSum x y z) := rfl

section
variable {x y z : F32} (hx : isNaN x = false) (hy : isNaN y = false) (hz : isNaN z = false)
include hx hy hz

theorem isNonNegative_squareSum : IsNonNegative (squareSum x y z) :=
  isNonNegative_f32Add (isNonNegative_f32Add (isNonNegative_f32Mul_self hx) (isNonNegative_f32Mul_self hy))
    (isNonNegative_f32Mul_self hz)

/-- One infinite component makes the sum infinite (R153). -/
theorem squareSum_of_inf (h : f32Mag x = 0x7F800000 ∨ f32Mag y = 0x7F800000 ∨ f32Mag z = 0x7F800000) :
    squareSum x y z = f32Inf false := by
  have hxx := isNonNegative_f32Mul_self hx
  have hyy := isNonNegative_f32Mul_self hy
  have hzz := isNonNegative_f32Mul_self hz
  unfold squareSum
  rcases h with h | h | h
  · rw [f32Mul_self_of_inf h, f32Add_inf_left hyy, f32Add_inf_left hzz]
  · rw [f32Mul_self_of_inf h, f32Add_inf_right hxx, f32Add_inf_left hzz]
  · rw [f32Mul_self_of_inf h, f32Add_inf_right (isNonNegative_f32Add hxx hyy)]

end

/-! ## The clamp and the root (R152, R153) -/

/-- The clamp takes a number that is no `-0` to one that is not negative. -/
theorem isNonNegative_clamp {r : F32} (h : IsNotNegativeZero r) : IsNonNegative (clamp ieee r) := by
  show IsNonNegative (if f32Lt r 0x00000000 then f32Zero false else r)
  split
  · exact isNonNegative_zero
  · next hlt =>
    rw [f32Lt_zero_iff] at hlt
    refine ⟨h.number, ?_⟩
    by_cases hmag : f32Mag r = 0
    · exact h.zero hmag
    · simpa [h.number, hmag] using hlt

theorem isNonNegative_sqrtFinite (m : Nat) (e : Int) : IsNonNegative (sqrtFinite m e) := by
  unfold sqrtFinite
  exact isNonNegative_roundPack _ _

theorem isNonNegative_f32Sqrt {r : F32} (h : IsNonNegative r) : IsNonNegative (f32Sqrt r) := by
  rcases h.cases with rfl | ⟨E, m, hr⟩
  · exact ⟨by decide +kernel, by decide +kernel⟩
  · rw [f32Sqrt_of_readsAs hr, h.sign, if_neg Bool.false_ne_true]
    split
    · exact isNonNegative_zero
    · exact isNonNegative_sqrtFinite _ _

/-- Without a NaN component `w` is a number with sign bit 0 (R153). -/
theorem isNonNegative_solveW {x y z : F32} (hx : isNaN x = false) (hy : isNaN y = false) (hz : isNaN z = false) :
    IsNonNegative (solveW ieee x y z) :=
  isNonNegative_f32Sqrt (isNonNegative_clamp (f32Sub_one (isNonNegative_squareSum hx hy hz)))

section
variable {ops : F32Ops} {x y z : F32}

/-- A radicand less than zero is replaced by `+0`. -/
theorem solveW_of_lt (h : ops.lt (radicand ops x y z) 0x00000000 = true) :
    solveW ops x y z = ops.sqrt 0x00000000 :=
  congrArg ops.sqrt (if_pos h)

/-- Any other radicand is kept. -/
theorem solveW_of_not_lt (h : ops.lt (radicand ops x y z) 0x00000000 = false) :
    solveW ops x y z = ops.sqrt (radicand ops x y z) :=
  congrArg ops.sqrt (if_neg (ne_true_of_eq_false h))

variable (hops : ListedProperties ops)
include hops

/-- The clamp gives `+0` under any operations with the listed properties (R152, D18). -/
theorem solveW_of_negative_radicand (h : ops.lt (radicand ops x y z) 0x00000000 = true) :
    solveW ops x y z = 0x00000000 :=
  (solveW_of_lt h).trans hops.sqrt_zero

/-- A NaN goes through the squares, the sums and the difference, is not clamped, and goes through the root. -/
theorem isNaN_solveW (h : isNaN x = true ∨ isNaN y = true ∨ isNaN z = true) : isNaN (solveW ops x y z) = true := by
  have hsquare {a : F32} (ha : isNaN a = true) : isNaN (ops.mul a a) = true := by
    obtain ⟨hmul, -⟩ := hops.nan_operand a a (.inl ha)
    exact hmul
  have hadd {a b : F32} (hab : isNaN a = true ∨ isNaN b = true) : isNaN (ops.add a b) = true := by
    obtain ⟨-, hadd, -⟩ := hops.nan_operand a b hab
    exact hadd
  have hsum : isNaN (ops.add (ops.add (ops.mul x x) (ops.mul y y)) (ops.mul z z)) = true := by
    rcases h with hx | hy | hz
    · exact hadd (.inl (hadd (.inl (hsquare hx))))
    · exact hadd (.inl (hadd (.inr (hsquare hy))))
    · exact hadd (.inr (hsquare hz))
  obtain ⟨-, -, hradicand, -⟩ := hops.nan_operand f32One _ (.inr hsum)
  obtain ⟨-, -, -, hlt⟩ := hops.nan_operand (radicand ops x y z) 0x00000000 (.inl hradicand)
  rw [solveW_of_not_lt hlt]
  exact hops.sqrt_nan _ (.inl hradicand)

end

/-! ## The pattern of a decoded word (R146) -/

theorem signed_eq_ofNat (s : Bit) {mag : Nat} (h : mag < 2 ^ 31) :
    signed s mag = BitVec.ofNat 32 (s.toNat * 2 ^ 31 + mag) :=
  BitVec.eq_of_toNat_eq (by have := s.toNat_lt; rw [signed_toNat s h, BitVec.toNat_ofNat]; omega)

/-- The magnitude of the decoded word outside class NAN, by its fields. -/
def decodedMag (e : BitVec 5) (m : BitVec 10) : Nat :=
  if e = 0 ∧ m = 0 then 0
  else if e = 0 then (Nat.log2 m.toNat + 103) * 2 ^ 23 + (m.toNat - 2 ^ Nat.log2 m.toNat) * 2 ^ (23 - Nat.log2 m.toNat)
  else if e = 31 then 0x7F800000
  else (e.toNat + 112) * 2 ^ 23 + m.toNat * 2 ^ 13

theorem decodeHalf_eq_signed {raw : Half} (h : ¬ (halfExp raw = 31 ∧ halfMant raw ≠ 0)) :
    decodeHalf raw = signed (halfSign raw) (decodedMag (halfExp raw) (halfMant raw)) := by
  simp only [decodeHalf, decodedMag]
  split_ifs with hzero h0 hinf h31 h31
  · rfl
  · rfl
  · rfl
  · exact absurd hinf.1 h31
  · exact absurd ⟨h31, fun hm => hinf ⟨h31, hm⟩⟩ h
  · rfl

theorem decodeHalf_of_nan {raw : Half} (h31 : halfExp raw = 31) (hm : halfMant raw ≠ 0) :
    decodeHalf raw = valueNan raw := by
  have h0 : (31 : BitVec 5) ≠ 0 := by decide
  simp only [decodeHalf, h31, hm, h0, and_false, if_true, if_false]

/-- The magnitude of a word that is not of class INF or NAN as a number of `2^(-149)`s (R142, R145). -/
def decodedScaled (e : BitVec 5) (m : BitVec 10) : Nat :=
  if e = 0 then m.toNat * 2 ^ 125 else (1024 + m.toNat) * 2 ^ (e.toNat + 124)

/-- What a subnormal's pattern is read as: its leading one is the hidden bit (R146). -/
theorem readsAs_subnormal {m k : Nat} (hlow : 2 ^ k ≤ m) (hhigh : m < 2 ^ (k + 1)) (hk : k ≤ 9) :
    ReadsAs ((k + 103) * 2 ^ 23 + (m - 2 ^ k) * 2 ^ (23 - k)) (k + 102) (m * 2 ^ (23 - k)) := by
  have hpow : 2 ^ k * 2 ^ (23 - k) = 2 ^ 23 := by rw [← pow_add]; congr 1; omega
  have hge : 2 ^ 23 ≤ m * 2 ^ (23 - k) := hpow ▸ Nat.mul_le_mul_right _ hlow
  have hlt : m * 2 ^ (23 - k) < 2 ^ 24 := by
    calc m * 2 ^ (23 - k) < 2 ^ (k + 1) * 2 ^ (23 - k) := Nat.mul_lt_mul_of_pos_right hhigh (Nat.two_pow_pos _)
      _ = 2 ^ 24 := by rw [pow_succ, mul_right_comm, hpow]; rfl
  have hmag : (k + 103) * 2 ^ 23 + (m - 2 ^ k) * 2 ^ (23 - k) = (k + 102) * 2 ^ 23 + m * 2 ^ (23 - k) := by
    rw [Nat.sub_mul, hpow]
    omega
  exact ⟨hmag, by omega, hlt, fun _ => hge⟩

theorem readsAs_normal {e m : Nat} (hlow : 1 ≤ e) (hhigh : e ≤ 30) (hm : m < 1024) :
    ReadsAs ((e + 112) * 2 ^ 23 + m * 2 ^ 13) (e + 111) ((1024 + m) * 2 ^ 13) :=
  ⟨by omega, by omega, by omega, by omega⟩

/-- The leading one of a fraction is one of its ten bits. -/
theorem log2_mant {m : BitVec 10} (hm : m ≠ 0) :
    2 ^ Nat.log2 m.toNat ≤ m.toNat ∧ m.toNat < 2 ^ (Nat.log2 m.toNat + 1) ∧ Nat.log2 m.toNat ≤ 9 := by
  have h0 : m.toNat ≠ 0 := fun h => hm (BitVec.eq_of_toNat_eq h)
  exact ⟨Nat.log2_self_le h0, Nat.lt_log2_self, Nat.lt_succ_iff.mp ((Nat.log2_lt h0).mpr m.isLt)⟩

/-- A decoded word outside the classes INF and NAN is finite and stands for the value of its class exactly. -/
theorem exists_readsAs_decodedMag {e : BitVec 5} (he : e ≠ 31) (m : BitVec 10) :
    ∃ E M, ReadsAs (decodedMag e m) E M ∧ M * 2 ^ E = decodedScaled e m := by
  unfold decodedMag decodedScaled
  split_ifs with hzero h0 h0
  · exact ⟨0, 0, ⟨rfl, by decide, by decide, nofun⟩, by simp [hzero.2]⟩
  · exact absurd hzero.1 h0
  · obtain ⟨hlow, hhigh, hk⟩ := log2_mant fun hm => hzero ⟨h0, hm⟩
    refine ⟨_, _, readsAs_subnormal hlow hhigh hk, ?_⟩
    rw [mul_assoc, ← pow_add]
    congr 2
    omega
  · have hpos : e.toNat ≠ 0 := fun h => h0 (BitVec.eq_of_toNat_eq h)
    have hmax : e.toNat ≠ 31 := fun h => he (BitVec.eq_of_toNat_eq h)
    have hlt := e.isLt
    refine ⟨_, _, readsAs_normal (by omega) (by omega) m.isLt, ?_⟩
    rw [mul_assoc, ← pow_add]
    congr 2
    omega

theorem decodedMag_le (e : BitVec 5) (m : BitVec 10) : decodedMag e m ≤ 0x7F800000 := by
  rcases eq_or_ne e 31 with rfl | he
  · simp [decodedMag]
  · obtain ⟨E, M, hr, -⟩ := exists_readsAs_decodedMag he m
    exact hr.mag_lt.le

theorem f32Mag_decodeHalf {raw : Half} (h : ¬ (halfExp raw = 31 ∧ halfMant raw ≠ 0)) :
    f32Mag (decodeHalf raw) = decodedMag (halfExp raw) (halfMant raw) := by
  rw [decodeHalf_eq_signed h, f32Mag_signed _ ((decodedMag_le _ _).trans_lt (by decide))]

theorem isNaN_decodeHalf {raw : Half} (h : ¬ (halfExp raw = 31 ∧ halfMant raw ≠ 0)) :
    isNaN (decodeHalf raw) = false := by
  rw [isNaN_eq_false, f32Mag_decodeHalf h]
  exact decodedMag_le _ _

theorem f32Sign_decodeHalf {raw : Half} (h : ¬ (halfExp raw = 31 ∧ halfMant raw ≠ 0)) :
    f32Sign (decodeHalf raw) = halfSign raw := by
  rw [decodeHalf_eq_signed h, f32Sign_signed]

/-- A greater pattern stands for a greater number (R148). -/
theorem decodedScaled_lt {e e' : BitVec 5} {m m' : BitVec 10}
    (h : e.toNat < e'.toNat ∨ e = e' ∧ m.toNat < m'.toNat) : decodedScaled e m < decodedScaled e' m' := by
  have hm := m.isLt
  unfold decodedScaled
  rcases h with he | ⟨rfl, hlt⟩
  · have he' : e' ≠ 0 := by rintro rfl; simp at he
    rw [if_neg he']
    split_ifs with h0
    · calc m.toNat * 2 ^ 125 < 1024 * 2 ^ 125 := Nat.mul_lt_mul_of_pos_right hm (Nat.two_pow_pos _)
        _ ≤ (1024 + m'.toNat) * 2 ^ (e'.toNat + 124) :=
          Nat.mul_le_mul (Nat.le_add_right _ _) (Nat.pow_le_pow_right two_pos (by omega))
    · calc (1024 + m.toNat) * 2 ^ (e.toNat + 124) < 2048 * 2 ^ (e.toNat + 124) :=
            Nat.mul_lt_mul_of_pos_right (by omega) (Nat.two_pow_pos _)
        _ = 1024 * 2 ^ (e.toNat + 124 + 1) := by rw [pow_succ]; ring
        _ ≤ (1024 + m'.toNat) * 2 ^ (e'.toNat + 124) :=
          Nat.mul_le_mul (Nat.le_add_right _ _) (Nat.pow_le_pow_right two_pos (by omega))
  · split_ifs
    · exact Nat.mul_lt_mul_of_pos_right hlt (Nat.two_pow_pos _)
    · exact Nat.mul_lt_mul_of_pos_right (by omega) (Nat.two_pow_pos _)

/-- From the zeros to infinity the decoded magnitude is increasing in the fields (R148). -/
theorem decodedMag_lt {e e' : BitVec 5} {m m' : BitVec 10} (he : e ≠ 31)
    (h : e.toNat < e'.toNat ∨ e = e' ∧ m.toNat < m'.toNat) : decodedMag e m < decodedMag e' m' := by
  obtain ⟨E, M, hr, hscaled⟩ := exists_readsAs_decodedMag he m
  rcases eq_or_ne e' 31 with rfl | he'
  · exact hr.mag_lt.trans_le (by simp [decodedMag])
  · obtain ⟨E', M', hr', hscaled'⟩ := exists_readsAs_decodedMag he' m'
    rw [← hr.scaled_lt_iff hr', hscaled, hscaled']
    exact decodedScaled_lt h

/-- Numbers that are not negative compare by their magnitudes. -/
theorem f32Lt_of_nonNegative {a b : F32} (ha : IsNonNegative a) (hb : IsNonNegative b)
    (h : f32Mag a < f32Mag b) : f32Lt a b = true := by
  simpa [f32Lt, orderKey, signedInt, ha.number, ha.sign, hb.number, hb.sign] using h

theorem halfExp_eq_31_iff (raw : Half) : halfExp raw = 31 ↔ raw.toNat / 1024 % 32 = 31 := by
  rw [← BitVec.toNat_inj, halfExp_toNat]
  rfl

/-- The words `0x0000` to `0x7C00` have sign bit 0 and are not of class NAN. -/
theorem not_nan_of_le_inf {raw : Half} (h : raw.toNat ≤ 0x7C00) :
    halfSign raw = false ∧ ¬ (halfExp raw = 31 ∧ halfMant raw ≠ 0) := by
  have hs := halfSign_toNat raw
  have hm := halfMant_toNat raw
  refine ⟨by rw [← Bool.toNat_eq_zero]; omega, fun ⟨h31, h0⟩ => h0 (BitVec.eq_of_toNat_eq ?_)⟩
  rw [halfExp_eq_31_iff] at h31
  show _ = 0
  omega

theorem halfWord_xor_sign (s : Bit) (e : BitVec 5) (m : BitVec 10) :
    halfWord s e m ^^^ 0x8000 = halfWord (!s) e m := by
  show (BitVec.ofBool s ++ e ++ m) ^^^ (1#1 ++ 0#5 ++ 0#10) = BitVec.ofBool (!s) ++ e ++ m
  rw [BitVec.xor_append, BitVec.xor_append, BitVec.xor_zero, BitVec.xor_zero]
  cases s <;> rfl

/-! ## RECONSTRUCT (R154 to R159) -/

/-- What RECONSTRUCT hands to its caller, from the configuration and the readings alone (R154, R159). -/
def reconstructed (cfg : Params) (readings : List Reading) : Result :=
  match selectAxes cfg readings with
  | some (x, y, z) => .quaternion (quaternionOf (f32Ops cfg.arith) x y z)
  | none => .error .missingOrDuplicateAxis

theorem exec_reconstruct (readings : List Reading) (s : State) :
    exec (.reconstruct readings) s = .next (s.deliver (reconstructed s.cfg readings)) := by
  show execReconstruct readings s = _
  unfold execReconstruct reconstructed
  rcases selectAxes s.cfg readings with _ | ⟨x, y, z⟩ <;> rfl

theorem consumed_iff (cfg : Params) (r : Reading) :
    consumed cfg r = true ↔ r.res = cfg.res16 ∧ (r.id = cfg.regQX ∨ r.id = cfg.regQY ∨ r.id = cfg.regQZ) := by
  simp [consumed, or_assoc]

/-- For an axis the consumed entries are those of its identity at the resolution `RES_16` (R155). -/
theorem axisRaws_eq {cfg : Params} {id : RegId} (hid : id = cfg.regQX ∨ id = cfg.regQY ∨ id = cfg.regQZ)
    (readings : List Reading) :
    axisRaws cfg id readings = (readings.filter (fun r => r.res = cfg.res16 ∧ r.id = id)).map (·.raw) := by
  rw [axisRaws, List.filter_filter]
  congr 1
  apply List.filter_congr
  intro r _
  rw [Bool.eq_iff_iff, Bool.and_eq_true, beq_iff_eq, consumed_iff, decide_eq_true_iff]
  constructor
  · rintro ⟨rfl, hres, -⟩
    exact ⟨hres, rfl⟩
  · rintro ⟨hres, rfl⟩
    exact ⟨rfl, hres, hid⟩

/-- Each axis consumed exactly once is selected (R154). -/
theorem selectAxes_of_singletons {cfg : Params} {readings : List Reading} {x y z : Half}
    (hx : axisRaws cfg cfg.regQX readings = [x]) (hy : axisRaws cfg cfg.regQY readings = [y])
    (hz : axisRaws cfg cfg.regQZ readings = [z]) : selectAxes cfg readings = some (x, y, z) := by
  simp only [selectAxes, hx, hy, hz]

/-- An axis consumed not at all or several times stops the selection (R156). -/
theorem selectAxes_eq_none {cfg : Params} {readings : List Reading}
    (h : (axisRaws cfg cfg.regQX readings).length ≠ 1 ∨ (axisRaws cfg cfg.regQY readings).length ≠ 1 ∨
      (axisRaws cfg cfg.regQZ readings).length ≠ 1) : selectAxes cfg readings = none := by
  unfold selectAxes
  split
  · next hx hy hz => simp [hx, hy, hz] at h
  · rfl

/-- A list has one element only in one order. -/
theorem eq_or_length_ne_one_of_perm {α : Type} {l l' : List α} (h : l.Perm l') :
    l = l' ∨ l.length ≠ 1 ∧ l'.length ≠ 1 := by
  by_cases hl : l.length = 1
  · obtain ⟨a, rfl⟩ := List.length_eq_one_iff.mp hl
    exact .inl (List.perm_singleton.mp h.symm).symm
  · exact .inr ⟨hl, h.length_eq ▸ hl⟩

/-- The selection does not depend on the order in which the entries of an axis come. -/
theorem selectAxes_congr {cfg : Params} {rs rs' : List Reading}
    (h : ∀ id, (axisRaws cfg id rs).Perm (axisRaws cfg id rs')) : selectAxes cfg rs = selectAxes cfg rs' := by
  rcases eq_or_length_ne_one_of_perm (h cfg.regQX) with hx | ⟨hx, hx'⟩
  · rcases eq_or_length_ne_one_of_perm (h cfg.regQY) with hy | ⟨hy, hy'⟩
    · rcases eq_or_length_ne_one_of_perm (h cfg.regQZ) with hz | ⟨hz, hz'⟩
      · simp only [selectAxes, hx, hy, hz]
      · rw [selectAxes_eq_none (.inr (.inr hz)), selectAxes_eq_none (.inr (.inr hz'))]
    · rw [selectAxes_eq_none (.inr (.inl hy)), selectAxes_eq_none (.inr (.inl hy'))]
  · rw [selectAxes_eq_none (.inl hx), selectAxes_eq_none (.inl hx')]

theorem axisRaws_perm (cfg : Params) (id : RegId) {rs rs' : List Reading} (h : rs.Perm rs') :
    (axisRaws cfg id rs).Perm (axisRaws cfg id rs') :=
  ((h.filter _).filter _).map _

/-- A skipped entry is no entry of any axis (R155). -/
theorem axisRaws_skip (cfg : Params) (id : RegId) (rs rs' : List Reading) {r : Reading} (h : consumed cfg r = false) :
    axisRaws cfg id (rs ++ r :: rs') = axisRaws cfg id (rs ++ rs') := by
  simp [axisRaws, h]

theorem exec_reconstruct_congr {rs rs' : List Reading} (s : State)
    (h : ∀ id, (axisRaws s.cfg id rs).Perm (axisRaws s.cfg id rs')) :
    exec (.reconstruct rs) s = exec (.reconstruct rs') s := by
  rw [exec_reconstruct, exec_reconstruct, reconstructed, reconstructed, selectAxes_congr h]

/-! ## The obligations -/

/-- Settles O41: DECODE delivers its value whatever the state is. -/
theorem decodeCompletes : Obligations.DecodeCompletes := fun _ _ => rfl

/-- Settles O43: the value of each class as a number. -/
theorem classRowsComplete : Obligations.ClassRowsComplete := by
  refine ⟨fun sg s => ?_, fun sg m k s hlow hhigh => ?_, fun sg s => ?_, fun sg m s => ⟨_, isNaN_nanPattern _, rfl⟩,
    fun sg e m s he1 he30 => ?_⟩
  · rw [← Nat.add_zero (sg.toNat * 2 ^ 31), ← signed_eq_ofNat sg (by decide)]
    rfl
  · have hm : m ≠ 0 := by rintro rfl; simp at hlow
    have hm0 : m.toNat ≠ 0 := fun h => hm (BitVec.eq_of_toNat_eq h)
    obtain rfl : Nat.log2 m.toNat = k := (Nat.log2_eq_iff hm0).mpr ⟨hlow, hhigh⟩
    obtain ⟨-, -, hk⟩ := log2_mant hm
    have hr := readsAs_subnormal hlow hhigh hk
    rw [add_assoc, ← signed_eq_ofNat sg (hr.mag_lt.trans (by decide))]
    rfl
  · rw [← signed_eq_ofNat sg (by decide)]
    rfl
  · have hr := readsAs_normal he1 he30 m.isLt
    rw [add_assoc, ← signed_eq_ofNat sg (hr.mag_lt.trans (by decide))]
    rfl

/-- Settles O44: the magnitude of a zero is 0 and that of an infinity the pattern of infinity. -/
theorem zerosAndInfinities : Obligations.ZerosAndInfinities := by
  refine ⟨fun raw he hm => ?_, fun raw he hm => ?_, by decide, by decide, by decide, by decide⟩
  · rw [decodeHalf_eq_signed (by simp [hm]), he, hm]
    rfl
  · rw [decodeHalf_eq_signed (by simp [hm]), he, hm]
    rfl

/-- Settles O45: what the pattern of each finite class is read as. -/
theorem decodeIsExact : Obligations.DecodeIsExact := by
  intro raw he
  have hclass : ¬ (halfExp raw = 31 ∧ halfMant raw ≠ 0) := fun h => he h.1
  obtain ⟨E, M, hr, hscaled⟩ := exists_readsAs_decodedMag he (halfMant raw)
  rw [← f32Mag_decodeHalf hclass] at hr
  refine ⟨M, (E : Int) - 149, f32Sign_decodeHalf hclass ▸ unpack_of_readsAs hr, by omega, ?_⟩
  rw [sub_add_cancel, Int.toNat_natCast, hscaled]
  rfl

/-- Settles O46: outside class NAN the magnitude is at most that of infinity. -/
theorem decodeNaNClass : Obligations.DecodeNaNClass := by
  intro raw
  constructor
  · intro h
    by_contra hclass
    rw [isNaN_decodeHalf hclass] at h
    cases h
  · rintro ⟨h31, hm⟩
    rw [decodeHalf_of_nan h31 hm]
    exact isNaN_nanPattern _

/-- Settles O47: the sign of the word is that of the pattern, and the magnitude does not depend on it. -/
theorem decodeNegates : Obligations.DecodeNegates := by
  intro raw hclass
  have hword : raw ^^^ 0x8000 = halfWord (!halfSign raw) (halfExp raw) (halfMant raw) := by
    rw [← halfWord_xor_sign, halfWord_fields]
  rw [hword, decodeHalf_eq_signed hclass, f32Neg_signed, decodeHalf_eq_signed] <;>
    simp only [halfSign_halfWord, halfExp_halfWord, halfMant_halfWord]
  exact hclass

/-- Settles O48: neither word has its sign bit set, and the magnitudes are in the order of the words. -/
theorem decodeIsIncreasing : Obligations.DecodeIsIncreasing := by
  intro a b hab hb
  obtain ⟨hsa, hca⟩ := not_nan_of_le_inf (hab.le.trans hb)
  obtain ⟨hsb, hcb⟩ := not_nan_of_le_inf hb
  apply f32Lt_of_nonNegative ⟨isNaN_decodeHalf hca, (f32Sign_decodeHalf hca).trans hsa⟩
    ⟨isNaN_decodeHalf hcb, (f32Sign_decodeHalf hcb).trans hsb⟩
  rw [f32Mag_decodeHalf hca, f32Mag_decodeHalf hcb]
  have hea := halfExp_toNat a
  have heb := halfExp_toNat b
  have hma := halfMant_toNat a
  have hmb := halfMant_toNat b
  apply decodedMag_lt
  · rw [ne_eq, halfExp_eq_31_iff]
    omega
  · rw [← BitVec.toNat_inj]
    omega

/-- Settles O49: the axis lists of the statement are those that the selection looks at. -/
theorem reconstructCompletes : Obligations.ReconstructCompletes := by
  intro readings s axis haxis
  have hraws {id : RegId} (hid : id = s.cfg.regQX ∨ id = s.cfg.regQY ∨ id = s.cfg.regQZ) :
      axisRaws s.cfg id readings = (axis id).map (·.raw) := by
    rw [axisRaws_eq hid, haxis]
  have hX := hraws (.inl rfl)
  have hY := hraws (.inr (.inl rfl))
  have hZ := hraws (.inr (.inr rfl))
  refine ⟨fun rx ry rz hx hy hz => ?_, fun h => ?_⟩
  · rw [hx] at hX
    rw [hy] at hY
    rw [hz] at hZ
    rw [exec_reconstruct, reconstructed, selectAxes_of_singletons hX hY hZ]
    rfl
  · have hnone : selectAxes s.cfg readings = none :=
      selectAxes_eq_none (by rwa [hX, hY, hZ, List.length_map, List.length_map, List.length_map])
    rw [exec_reconstruct, reconstructed, hnone]
    rfl

/-- Settles O50: the lists of the axes are permuted, do not see a skipped entry, and depend on the configuration
only. -/
theorem reconstructIgnoresOrder : Obligations.ReconstructIgnoresOrder := by
  refine ⟨fun rs rs' s h => exec_reconstruct_congr s fun id => axisRaws_perm s.cfg id h, fun rs rs' r s h => ?_,
    fun rs s t s' t' hcfg hs ht => ?_⟩
  · have hskip : consumed s.cfg r = false := by
      rw [← Bool.not_eq_true, consumed_iff]
      tauto
    exact exec_reconstruct_congr s fun id => by rw [axisRaws_skip s.cfg id rs rs' hskip]
  · rw [exec_reconstruct] at hs ht
    cases hs
    cases ht
    rw [deliver_result, deliver_result, hcfg]

/-- Settles O51: the two cases of the comparison, and the order of evaluation as it is defined. -/
theorem solverClamps : Obligations.SolverClamps :=
  ⟨rfl, fun _ _ _ _ => ⟨solveW_of_lt, solveW_of_not_lt, rfl⟩⟩

/-- Settles O52: the root of the clamped radicand is the root of `+0`, which is no NaN. -/
theorem negativeRadicandGivesZero : Obligations.NegativeRadicandGivesZero := by
  have key {ops : F32Ops} (hops : ListedProperties ops) {x y z : F32}
      (h : ops.lt (radicand ops x y z) 0x00000000 = true) :
      solveW ops x y z = 0x00000000 ∧ isNaN (solveW ops x y z) = false := by
    rw [solveW_of_negative_radicand hops h]
    exact ⟨rfl, by decide⟩
  exact ⟨fun _ _ _ => key listedProperties_ieee, fun _ _ _ _ hops => key hops⟩

/-- Settles O53: the default operations have the listed properties too. -/
theorem naNComponentGivesNaN : Obligations.NaNComponentGivesNaN := fun _ _ _ h =>
  ⟨isNaN_solveW listedProperties_ieee h, fun _ hops => isNaN_solveW hops h⟩

/-- Settles O54: the sum of squares is infinite, so the radicand is minus infinity and is clamped. -/
theorem infiniteComponentClamps : Obligations.InfiniteComponentClamps := by
  intro x y z hx hy hz hinf
  have hr : radicand ieee x y z = f32Inf true := by
    rw [radicand_ieee, squareSum_of_inf hx hy hz hinf, f32Sub_one_inf]
  have hlt : ieee.lt (f32Inf true) 0x00000000 = true := by decide
  exact ⟨hr, solveW_of_negative_radicand listedProperties_ieee (hr ▸ hlt)⟩

/-- Settles O55: with a NaN component `w` is a NaN, and without one it is not negative. -/
theorem solvedWIsNonNegative : Obligations.SolvedWIsNonNegative := by
  intro x y z
  by_cases h : isNaN x = true ∨ isNaN y = true ∨ isNaN z = true
  · exact .inl (isNaN_solveW listedProperties_ieee h)
  · simp only [not_or, Bool.not_eq_true] at h
    obtain ⟨hx, hy, hz⟩ := h
    exact .inr (isNonNegative_solveW hx hy hz).sign

/-- Settles O56: the radicand is never a NaN, and the clamp leaves no negative one. -/
theorem solvedWIsNumber : Obligations.SolvedWIsNumber := fun _ _ _ hx hy hz => (isNonNegative_solveW hx hy hz).number

/-- Settles O57: each component enters as its square only. -/
theorem signsDoNotMatter : Obligations.SignsDoNotMatter := by
  intro x y z hx hy hz
  simp only [solveW, radicand_ieee, squareSum, f32Mul_neg_self hx, f32Mul_neg_self hy, f32Mul_neg_self hz, and_self]

/-- Settles O58: the listed properties, and the example, which is within the tolerance of 4/5. -/
theorem defaultFloatSpecials : Obligations.DefaultFloatSpecials := by
  have h := listedProperties_ieee
  exact ⟨⟨h.inf_mul_inf, h.one_sub_inf, h.sqrt_zero, h.sqrt_neg_zero, h.zeros_equal.1, h.zeros_equal.2,
    h.nan_operand, h.sqrt_nan⟩, h, solveW_unitNorm, fun _ => meetsFloatTol_of_ieee⟩

/-- Settles O59: the rounding step, the integer root, and the packing that uses the rounding step. -/
theorem roundingIsNearestEven : Obligations.RoundingIsNearestEven :=
  ⟨rneShift_spec, fun _ => isqrt_spec, fun s m e => ⟨correctlyRounded_roundPack s m e, f32Sign_roundPack s m e⟩⟩

/-- Settles O60: each operation rounds the exact result once; a difference is a sum with the opposite. -/
theorem operationsAreCorrectlyRounded : Obligations.OperationsAreCorrectlyRounded := by
  refine ⟨fun a b p q ha hb => ?_, fun a p => correctlyRounded_sqrt⟩
  obtain ⟨hmul, hsign⟩ := correctlyRounded_mul ha hb
  obtain ⟨hadd, hzero⟩ := correctlyRounded_add ha hb
  obtain ⟨hsub, -⟩ := correctlyRounded_add ha (f32Value_neg hb)
  rw [Rat.cast_neg, ← sub_eq_add_neg] at hsub
  exact ⟨hmul, fun _ => hsign, hadd, hzero, hsub, f32Lt_iff_of_f32Value ha hb⟩

end Sys2Proof.Machine

/-! The proofs of the family `60_exceptions.md`: when a tick can be taken from unit TX (R176, R177), and the
reference receiver of R190 on the waveform of a message. -/

namespace Sys2Proof.Machine

/-! ## The waveform of a message, frame by frame (R118) -/

@[simp] theorem messageLevel_nil (period n : Nat) : messageLevel [] period n = true := rfl

/-- The frame of the first byte takes the first ten bit periods, one for each slot. -/
theorem messageLevel_first_frame (b : Byte) (rest : List Byte) {period k d : Nat} (hk : k < 10) (hd : d < period) :
    messageLevel (b :: rest) period (k * period + d) = frameBit b k := by
  have hslot : (k * period + d) / period = k := by
    rw [Nat.mul_comm, Nat.mul_add_div (by omega), Nat.div_eq_of_lt hd, Nat.add_zero]
  simp [messageLevel, hslot, Nat.div_eq_of_lt hk, Nat.mod_eq_of_lt hk]

/-- After it the waveform is that of the bytes that follow. -/
theorem messageLevel_after_frame (b : Byte) (rest : List Byte) {period : Nat} (hpos : 0 < period) (n : Nat) :
    messageLevel (b :: rest) period (10 * period + n) = messageLevel rest period n := by
  have hslot : (10 * period + n) / period = n / period + 10 := by
    rw [Nat.mul_comm, Nat.mul_add_div hpos, Nat.add_comm]
  simp [messageLevel, hslot]

/-! ## The reference receiver (R190) -/

/-- The payload of a frame is the sum of its data bits, each times its power of two. -/
theorem byte_of_frameBits (b : Byte) :
    BitVec.ofNat 8 ((frameBit b 1).toNat + (frameBit b 2).toNat * 2 + (frameBit b 3).toNat * 4 +
      (frameBit b 4).toNat * 8 + (frameBit b 5).toNat * 16 + (frameBit b 6).toNat * 32 +
      (frameBit b 7).toNat * 64 + (frameBit b 8).toNat * 128) = b := by
  have hbit : ∀ k, k < 8 → (frameBit b (k + 1)).toNat = b.toNat / 2 ^ k % 2 := fun k hk => by
    rw [frameBit_data b hk, BitVec.getLsbD, Nat.toNat_testBit]
  apply BitVec.eq_of_toNat_eq
  rw [hbit 0, hbit 1, hbit 2, hbit 3, hbit 4, hbit 5, hbit 6, hbit 7, BitVec.toNat_ofNat]
  all_goals omega

section
variable {period : Nat} {level : Nat → Bit}

/-- Ten samples that are the slots of a frame give its byte. -/
theorem sampleByte_of_frame {b : Byte} {tf : Nat}
    (h : ∀ k, k < 10 → level (tf + k * period + period / 2) = frameBit b k) :
    sampleByte period level tf = some b := by
  simp only [sampleByte, h, Nat.reduceLT, byte_of_frameBits, frameBit_start, frameBit_stop]
  simp

/-- A look at a fall reads the frame that begins there, and the search goes on in its stop slot. -/
theorem receive_frame {b : Byte} {t : Nat} (hhigh : level t = true)
    (h : ∀ k d, k < 10 → d < period → level (t + 1 + (k * period + d)) = frameBit b k) (hpos : 0 < period)
    (fuel : Nat) :
    receive period level (fuel + 1) t = b :: receive period level fuel (t + 1 + 9 * period + period / 2) := by
  have hfall : level (t + 1) = false := by simpa [frameBit_start] using h 0 0 (by decide) hpos
  have hsample : sampleByte period level (t + 1) = some b := sampleByte_of_frame fun k hk => by
    rw [Nat.add_assoc]
    exact h k _ hk (Nat.div_lt_self hpos (by decide))
  simp [receive, hhigh, hfall, hsample]

/-- While the line is at 1 the receiver waits. -/
theorem receive_waits (w fuel t : Nat) (h : ∀ i, i ≤ w → level (t + i) = true) :
    receive period level (fuel + w) t = receive period level fuel (t + w) := by
  induction w generalizing t with
  | zero => rfl
  | succ w ih =>
    have hnext : level (t + 1) = true := h 1 (by omega)
    have hlook : receive period level (fuel + w + 1) t = receive period level (fuel + w) (t + 1) := by
      simp [receive, hnext]
    rw [← Nat.add_assoc, hlook, ih (t + 1) fun i hi => by rw [Nat.add_right_comm]; exact h (i + 1) (by omega),
      Nat.add_right_comm, Nat.add_assoc]

/-- The receiver reads back a message whose waveform follows `w + 1` ticks of an idle line, when its looks are as
many as the ticks up to the end of the message. -/
theorem receive_message (hpos : 0 < period) (bytes : List Byte) (fuel w t : Nat)
    (hidle : ∀ i, i ≤ w → level (t + i) = true)
    (hwave : ∀ n, level (t + w + 1 + n) = messageLevel bytes period n)
    (hfuel : 10 * bytes.length * period + w ≤ fuel) : receive period level fuel t = bytes := by
  induction bytes generalizing fuel w t with
  | nil =>
    have hhigh : ∀ i, level (t + i) = true := fun i => by
      rcases Nat.lt_or_ge w i with hi | hi
      · obtain ⟨n, rfl⟩ := Nat.exists_eq_add_of_lt hi
        rw [show t + (w + n + 1) = t + w + 1 + n by omega, hwave, messageLevel_nil]
      · exact hidle i hi
    simpa [receive] using receive_waits (period := period) fuel 0 t fun i _ => hhigh i
  | cons b rest ih =>
    have hticks : 10 * (b :: rest).length * period = 10 * rest.length * period + 10 * period := by
      rw [List.length_cons]; ring
    obtain ⟨f, rfl⟩ : ∃ f, fuel = f + 1 + w := ⟨fuel - 1 - w, by omega⟩
    have hframe : ∀ k d, k < 10 → d < period → level (t + w + 1 + (k * period + d)) = frameBit b k :=
      fun k d hk hd => by rw [hwave, messageLevel_first_frame b rest hk hd]
    rw [receive_waits w _ t hidle, receive_frame (hidle w le_rfl) hframe hpos]
    -- The search goes on in the middle of the stop slot, which stays at 1 up to the next start bit.
    have hstop : ∀ i, i ≤ period - period / 2 - 1 → level (t + w + 1 + 9 * period + period / 2 + i) = true := by
      intro i hi
      rw [Nat.add_assoc _ (period / 2), Nat.add_assoc _ (9 * period), hframe 9 _ (by decide) (by omega), frameBit_stop]
    have hnext : ∀ n, level (t + w + 1 + 9 * period + period / 2 + (period - period / 2 - 1) + 1 + n) =
        messageLevel rest period n := by
      intro n
      rw [← messageLevel_after_frame b rest hpos, ← hwave]
      congr 1
      omega
    rw [ih f (period - period / 2 - 1) _ hstop hnext (by omega)]

end

/-! ## The obligations -/

/-- Settles O18: what each kind of source does to a tick, by the mask. -/
theorem takenTicks : Obligations.TakenTicks := by
  refine fun s => ⟨fun hirq => ⟨?_, ?_⟩, fun hirq => ?_, fun hirq hbusy => ?_⟩
  · simp [passTick, hirq]
  · simp [passTick, hirq]
  · simp [passTick, hirq]
  · simp [passTick, hirq, hbusy]

/-- Settles O27: the waveform of the message, by the closed form of SENDRAW, after the one idle tick before it. -/
theorem receiverReadsMessage : Obligations.ReceiverReadsMessage := by
  intro bytes s s0 fuel hbusy hhigh hcounter hquiet hexec hfuel
  refine receive_message s.cfg.bitPeriod_pos bytes fuel 0 0 (fun i hi => ?_) (fun n => ?_) hfuel
  · simp [Nat.le_zero.mp hi, hhigh]
  · rw [← levelAfter_sendRaw hbusy hhigh hcounter hquiet hexec n]
    simp [Nat.add_comm]

end Sys2Proof.Machine
